-- ==== Sys2Proof/Word.lean ====
section
/-! DEFINITION. The value types of 00_scope.md R5 to R7 and the plainest readings between them. -/

namespace Sys2Proof

/-- The 32-bit pattern of an `int32`: what a register holds (R5 `XLEN`, R30). -/
abbrev Word := BitVec 32

/-- A `u32`: program counter, cursor, call-stack entry, PROG_LEN (R5 `PC_W`, `ADDR_W`). -/
abbrev U32 := BitVec 32

/-- A `u8`: one arena cell (R5 `BYTE`). -/
abbrev Byte := BitVec 8

/-- One instruction word (R5 `ILEN`, R100). -/
abbrev InstrWord := BitVec 96

/-- `s32(p)`: the pattern `p` read as an int32 (R7). -/
def s32 (p : Word) : Int := p.toInt

/-- `wrap32(n)`: the int32 congruent to `n` modulo 2^32, as its pattern (R7). -/
def wrap32 (n : Int) : Word := BitVec.ofInt 32 n

end Sys2Proof
end

