-- ==== Sys2Proof/Syntax.lean ====
section
/-! DEFINITION. The closed instruction set of 00_scope.md R2: one constructor per row of opcode_table.json,
operands in the source's order (30_encoding.md R104, R111). -/

namespace Sys2Proof

/-- A decoded instruction: the source's closed tagged variant (R105). Operands are the numbers they stand for:
a register index is a number that may be 8 or more (R101), an `unsigned` operand a natural number that every
rule computes with in the naturals (R102), SetRegister's value an integer. `WellFormed` says which of them an
encoding can hold. -/
inductive Instr where
  | setRegister (reg : Nat) (value : Int)
  | add (regA regB regDest : Nat)
  | sub (regA regB regDest : Nat)
  | mul (regA regB regDest : Nat)
  | div (regA regB regDest : Nat)
  | mod (regA regB regDest : Nat)
  | eq (regA regB regDest : Nat)
  | neq (regA regB regDest : Nat)
  | gt (regA regB regDest : Nat)
  | lt (regA regB regDest : Nat)
  | gte (regA regB regDest : Nat)
  | lte (regA regB regDest : Nat)
  | jump (offset : Nat)
  | jumpIfZero (reg offset : Nat)
  | jumpIfNonZero (reg offset : Nat)
  | print (reg : Nat)
  | halt
  | allocateMemory (size : Nat)
  | freeMemory (address : Nat)
  | storeToMemory (address reg offset : Nat)
  | loadFromMemory (address regDest : Nat)
  | call (offset : Nat)
  /-- `Return`. -/
  | ret
deriving DecidableEq, Repr

end Sys2Proof
end

