-- ==== Sys2Proof/WellFormed.lean ====
section
/-! DEFINITION. Which decoded instructions an instruction word can hold: "every decoded instruction d whose
register fields are < 256 and whose immediates fit in 32 bits" (30_encoding.md R109; ranges R101, R102, R111). -/

namespace Sys2Proof

/-- A register-index field holds 8 bits; 8 to 255 are valid encodings that name no register (R101). -/
def fitsReg (r : Nat) : Bool := decide (r < 2 ^ 8)

/-- An `unsigned` operand is a u32 (R102). -/
def fitsU32 (n : Nat) : Bool := decide (n < 2 ^ 32)

/-- SetRegister's value is an int32 (R102). -/
def fitsS32 (v : Int) : Bool := decide (-2 ^ 31 ≤ v) && decide (v < 2 ^ 31)

/-- The instruction has an encoding (R109). -/
def WellFormed : Instr → Bool
  | .setRegister reg value => fitsReg reg && fitsS32 value
  | .add a b d => fitsReg a && fitsReg b && fitsReg d
  | .sub a b d => fitsReg a && fitsReg b && fitsReg d
  | .mul a b d => fitsReg a && fitsReg b && fitsReg d
  | .div a b d => fitsReg a && fitsReg b && fitsReg d
  | .mod a b d => fitsReg a && fitsReg b && fitsReg d
  | .eq a b d => fitsReg a && fitsReg b && fitsReg d
  | .neq a b d => fitsReg a && fitsReg b && fitsReg d
  | .gt a b d => fitsReg a && fitsReg b && fitsReg d
  | .lt a b d => fitsReg a && fitsReg b && fitsReg d
  | .gte a b d => fitsReg a && fitsReg b && fitsReg d
  | .lte a b d => fitsReg a && fitsReg b && fitsReg d
  | .jump offset => fitsU32 offset
  | .jumpIfZero reg offset => fitsReg reg && fitsU32 offset
  | .jumpIfNonZero reg offset => fitsReg reg && fitsU32 offset
  | .print reg => fitsReg reg
  | .halt => true
  | .allocateMemory size => fitsU32 size
  | .freeMemory address => fitsU32 address
  | .storeToMemory address reg offset => fitsU32 address && fitsReg reg && fitsU32 offset
  | .loadFromMemory address regDest => fitsU32 address && fitsReg regDest
  | .call offset => fitsU32 offset
  | .ret => true

end Sys2Proof
end

