-- ==== Sys2Proof/Decode.lean ====
section
/-! DEFINITION. The instruction word, its formats and opcode map, the decoder and the encoder
(30_encoding.md R100 to R109; byte order of a word moved as bytes, 20_memory.md R81). -/

namespace Sys2Proof

/-- The seven formats of R103. -/
inductive Format where
  | N | DI | ABD | I | AI | A | AIJ
deriving DecidableEq, Repr

/-- Why a word decodes to ILLEGAL (R106), or a byte string to nothing. -/
inductive DecodeError where
  /-- The opcode is 0x00 or 0x18 to 0xFF. -/
  | unassignedOpcode (opc : Byte)
  /-- A reserved field of the opcode's format is not zero. -/
  | reservedField (opc : Byte)
  /-- Fewer than 12 bytes are left (byte strings only; a 96-bit word never gives this). -/
  | truncated
deriving DecidableEq, Repr

/-! ## Fields (R100) -/

/-- OPC, bits 95:88. -/
def opcField (w : InstrWord) : Byte := w.extractLsb' 88 8
/-- RA, bits 87:80. -/
def raField (w : InstrWord) : Byte := w.extractLsb' 80 8
/-- RB, bits 79:72. -/
def rbField (w : InstrWord) : Byte := w.extractLsb' 72 8
/-- RD, bits 71:64. -/
def rdField (w : InstrWord) : Byte := w.extractLsb' 64 8
/-- IMMA, bits 63:32. -/
def immAField (w : InstrWord) : U32 := w.extractLsb' 32 32
/-- IMMB, bits 31:0. -/
def immBField (w : InstrWord) : U32 := w.extractLsb' 0 32

/-- A word from its fields, OPC in the most significant byte (R100). -/
def layout (opc ra rb rd : Byte) (ia ib : U32) : InstrWord :=
  (opc ++ ra ++ rb ++ rd ++ ia ++ ib : BitVec (8 + 8 + 8 + 8 + 32 + 32))

/-- The fields a format does not use are zero (R103). -/
def reservedClear (f : Format) (ra rb rd : Byte) (ia ib : U32) : Bool :=
  match f with
  | .N   => ra == 0 && rb == 0 && rd == 0 && ia == 0 && ib == 0
  | .DI  => ra == 0 && rb == 0 && ib == 0
  | .ABD => ia == 0 && ib == 0
  | .I   => ra == 0 && rb == 0 && rd == 0 && ib == 0
  | .AI  => rb == 0 && rd == 0 && ib == 0
  | .A   => rb == 0 && rd == 0 && ia == 0 && ib == 0
  | .AIJ => rb == 0 && rd == 0

/-- The reserved-field mask of a format (R104). -/
def Format.reservedMask : Format → InstrWord
  | .N   => 0x00FFFFFFFFFFFFFFFFFFFFFF
  | .DI  => 0x00FFFF0000000000FFFFFFFF
  | .ABD => 0x00000000FFFFFFFFFFFFFFFF
  | .I   => 0x00FFFFFF00000000FFFFFFFF
  | .AI  => 0x0000FFFF00000000FFFFFFFF
  | .A   => 0x0000FFFFFFFFFFFFFFFFFFFF
  | .AIJ => 0x0000FFFF0000000000000000

/-! ## Opcode map (R104) -/

/-- The format of an opcode, `none` for 0x00 and 0x18 to 0xFF. -/
def formatOf (opc : Byte) : Option Format :=
  match opc.toNat with
  | 0x01 => some .DI
  | 0x02 | 0x03 | 0x04 | 0x05 | 0x06 => some .ABD
  | 0x07 | 0x08 | 0x09 | 0x0A | 0x0B | 0x0C => some .ABD
  | 0x0D => some .I
  | 0x0E | 0x0F => some .AI
  | 0x10 => some .A
  | 0x11 => some .N
  | 0x12 | 0x13 => some .I
  | 0x14 => some .AIJ
  | 0x15 => some .DI
  | 0x16 => some .I
  | 0x17 => some .N
  | _ => none

/-- The opcode of an instruction. -/
def opcodeOf : Instr → Byte
  | .setRegister _ _ => 0x01
  | .add _ _ _ => 0x02
  | .sub _ _ _ => 0x03
  | .mul _ _ _ => 0x04
  | .div _ _ _ => 0x05
  | .mod _ _ _ => 0x06
  | .eq _ _ _ => 0x07
  | .neq _ _ _ => 0x08
  | .gt _ _ _ => 0x09
  | .lt _ _ _ => 0x0A
  | .gte _ _ _ => 0x0B
  | .lte _ _ _ => 0x0C
  | .jump _ => 0x0D
  | .jumpIfZero _ _ => 0x0E
  | .jumpIfNonZero _ _ => 0x0F
  | .print _ => 0x10
  | .halt => 0x11
  | .allocateMemory _ => 0x12
  | .freeMemory _ => 0x13
  | .storeToMemory _ _ _ => 0x14
  | .loadFromMemory _ _ => 0x15
  | .call _ => 0x16
  | .ret => 0x17

/-! ## The decoder (R105) -/

/-- The instruction an assigned opcode and the fields stand for; `none` for an unassigned opcode. -/
def instrOfFields (opc ra rb rd : Byte) (ia ib : U32) : Option Instr :=
  match opc.toNat with
  | 0x01 => some (.setRegister rd.toNat (s32 ia))
  | 0x02 => some (.add ra.toNat rb.toNat rd.toNat)
  | 0x03 => some (.sub ra.toNat rb.toNat rd.toNat)
  | 0x04 => some (.mul ra.toNat rb.toNat rd.toNat)
  | 0x05 => some (.div ra.toNat rb.toNat rd.toNat)
  | 0x06 => some (.mod ra.toNat rb.toNat rd.toNat)
  | 0x07 => some (.eq ra.toNat rb.toNat rd.toNat)
  | 0x08 => some (.neq ra.toNat rb.toNat rd.toNat)
  | 0x09 => some (.gt ra.toNat rb.toNat rd.toNat)
  | 0x0A => some (.lt ra.toNat rb.toNat rd.toNat)
  | 0x0B => some (.gte ra.toNat rb.toNat rd.toNat)
  | 0x0C => some (.lte ra.toNat rb.toNat rd.toNat)
  | 0x0D => some (.jump ia.toNat)
  | 0x0E => some (.jumpIfZero ra.toNat ia.toNat)
  | 0x0F => some (.jumpIfNonZero ra.toNat ia.toNat)
  | 0x10 => some (.print ra.toNat)
  | 0x11 => some .halt
  | 0x12 => some (.allocateMemory ia.toNat)
  | 0x13 => some (.freeMemory ia.toNat)
  | 0x14 => some (.storeToMemory ia.toNat ra.toNat ib.toNat)
  | 0x15 => some (.loadFromMemory ia.toNat rd.toNat)
  | 0x16 => some (.call ia.toNat)
  | 0x17 => some .ret
  | _ => none

/-- Decode on fields: the format check first, then the reserved fields, then the operands (R105). -/
def decodeFields (opc ra rb rd : Byte) (ia ib : U32) : Except DecodeError Instr :=
  match formatOf opc with
  | none => .error (.unassignedOpcode opc)
  | some f =>
    if reservedClear f ra rb rd ia ib then
      match instrOfFields opc ra rb rd ia ib with
      | some i => .ok i
      | none => .error (.unassignedOpcode opc)
    else .error (.reservedField opc)

/-- `Decode(w)`: total on 96-bit words; ILLEGAL is an error with its reason (R105, R106). -/
def decode (w : InstrWord) : Except DecodeError Instr :=
  decodeFields (opcField w) (raField w) (rbField w) (rdField w) (immAField w) (immBField w)

/-! ## The encoder (R109) -/

/-- `Encode(d)`: the fields placed as R104 says, every reserved field zero. -/
def encode : Instr → InstrWord
  | .setRegister reg value => layout 0x01 0 0 (BitVec.ofNat 8 reg) (BitVec.ofInt 32 value) 0
  | .add a b d => layout 0x02 (BitVec.ofNat 8 a) (BitVec.ofNat 8 b) (BitVec.ofNat 8 d) 0 0
  | .sub a b d => layout 0x03 (BitVec.ofNat 8 a) (BitVec.ofNat 8 b) (BitVec.ofNat 8 d) 0 0
  | .mul a b d => layout 0x04 (BitVec.ofNat 8 a) (BitVec.ofNat 8 b) (BitVec.ofNat 8 d) 0 0
  | .div a b d => layout 0x05 (BitVec.ofNat 8 a) (BitVec.ofNat 8 b) (BitVec.ofNat 8 d) 0 0
  | .mod a b d => layout 0x06 (BitVec.ofNat 8 a) (BitVec.ofNat 8 b) (BitVec.ofNat 8 d) 0 0
  | .eq a b d => layout 0x07 (BitVec.ofNat 8 a) (BitVec.ofNat 8 b) (BitVec.ofNat 8 d) 0 0
  | .neq a b d => layout 0x08 (BitVec.ofNat 8 a) (BitVec.ofNat 8 b) (BitVec.ofNat 8 d) 0 0
  | .gt a b d => layout 0x09 (BitVec.ofNat 8 a) (BitVec.ofNat 8 b) (BitVec.ofNat 8 d) 0 0
  | .lt a b d => layout 0x0A (BitVec.ofNat 8 a) (BitVec.ofNat 8 b) (BitVec.ofNat 8 d) 0 0
  | .gte a b d => layout 0x0B (BitVec.ofNat 8 a) (BitVec.ofNat 8 b) (BitVec.ofNat 8 d) 0 0
  | .lte a b d => layout 0x0C (BitVec.ofNat 8 a) (BitVec.ofNat 8 b) (BitVec.ofNat 8 d) 0 0
  | .jump offset => layout 0x0D 0 0 0 (BitVec.ofNat 32 offset) 0
  | .jumpIfZero reg offset => layout 0x0E (BitVec.ofNat 8 reg) 0 0 (BitVec.ofNat 32 offset) 0
  | .jumpIfNonZero reg offset => layout 0x0F (BitVec.ofNat 8 reg) 0 0 (BitVec.ofNat 32 offset) 0
  | .print reg => layout 0x10 (BitVec.ofNat 8 reg) 0 0 0 0
  | .halt => layout 0x11 0 0 0 0 0
  | .allocateMemory size => layout 0x12 0 0 0 (BitVec.ofNat 32 size) 0
  | .freeMemory address => layout 0x13 0 0 0 (BitVec.ofNat 32 address) 0
  | .storeToMemory address reg offset =>
    layout 0x14 (BitVec.ofNat 8 reg) 0 0 (BitVec.ofNat 32 address) (BitVec.ofNat 32 offset)
  | .loadFromMemory address regDest =>
    layout 0x15 0 0 (BitVec.ofNat 8 regDest) (BitVec.ofNat 32 address) 0
  | .call offset => layout 0x16 0 0 0 (BitVec.ofNat 32 offset) 0
  | .ret => layout 0x17 0 0 0 0 0

/-! ## Words as bytes (R81): most significant byte first -/

/-- The 12 bytes of a word, bits 95:88 first. -/
def wordToBytes (w : InstrWord) : List Byte :=
  (List.range 12).map fun k => w.extractLsb' (88 - 8 * k) 8

/-- The word whose bytes, most significant first, are the given ones. -/
def wordOfBytes (bs : List Byte) : InstrWord :=
  bs.foldl (fun w b => (w <<< 8) ||| b.setWidth 96) 0

/-- The encoder on byte strings. -/
def encodeBytes (i : Instr) : List Byte := wordToBytes (encode i)

/-- The decoder on any byte string: the instruction of its first 12 bytes and the rest. -/
def decodeBytes (bs : List Byte) : Except DecodeError (Instr × List Byte) :=
  if bs.length < 12 then .error .truncated
  else
    match decode (wordOfBytes (bs.take 12)) with
    | .ok i => .ok (i, bs.drop 12)
    | .error e => .error e

/-! ## The host's reading of an opcode-table row -/

/-- The word an opcode-table row's bits stand for. The table numbers one 96-bit word, bit 0 least significant,
so the bits are the word (log 16); bits above `nbits` are zero. -/
def tableWord (nbits w : Nat) : InstrWord := BitVec.ofNat 96 (w % 2 ^ nbits)

/-- The instruction the decoder reads from a table row's bits. -/
def decodeTableWord (nbits w : Nat) : Option Instr :=
  match decode (tableWord nbits w) with
  | .ok i => some i
  | .error _ => none

end Sys2Proof
end

