-- ==== Sys2Proof/Config.lean ====
section
/-! DEFINITION. The OPEN parameters of 00_scope.md R5. A model takes them as arguments: here they are one
record, carried unchanged in the machine's state, so that a statement about every state is a statement
about every value of them (log 2). -/

namespace Sys2Proof

/-- The OPEN capacities of R5. `imemDepth` and `arenaLimit` are at most 2^32 - 1 by their type. -/
structure Config where
  /-- IMEM_DEPTH: instruction-memory capacity in words, `0 < IMEM_DEPTH ≤ 2^32 - 1` (92 D18). -/
  imemDepth  : U32
  /-- CALL_DEPTH: call-stack capacity in entries, recommended at least IMEM_DEPTH (92 D17). -/
  callDepth  : Nat
  /-- ARENA_LIMIT: the largest value the cursor may reach, at most 2^32 - 1 (92 D15). -/
  arenaLimit : U32
  /-- MAX_REGIONS: capacity of the live-region table, at least 1; `none` is unbounded (92 D16). -/
  maxRegions : Option Nat
deriving DecidableEq, Repr

/-- The constraints R5 puts on the parameters that their types do not already say. -/
abbrev Config.wf (c : Config) : Prop := 0 < c.imemDepth.toNat ∧ c.maxRegions ≠ some 0

/-- `n` live regions are within MAX_REGIONS. -/
def Config.regionsFit (c : Config) (n : Nat) : Bool :=
  match c.maxRegions with
  | none => true
  | some m => decide (n ≤ m)

/-- The values `State.reset` takes: ARENA_LIMIT at R5's default and MAX_REGIONS unbounded as R5 allows;
IMEM_DEPTH and CALL_DEPTH at 2^32 - 1 are a DESIGN CHOICE (log 2). -/
def Config.standard : Config :=
  { imemDepth := 0xFFFFFFFF, callDepth := 0xFFFFFFFF, arenaLimit := 0xFFFFFFFF, maxRegions := none }

end Sys2Proof
end

