-- ==== Sys2Proof/Machine/State.lean ====
section
/-! DEFINITION. The machine's state as plain data: everything 10_state.md gives the block, the program
(20_memory.md R70), the block's input lines (R60), and the OPEN parameters; the event records; the reasons a
step can stop; the state after reset (70_reset_and_hazards.md R340). -/

namespace Sys2Proof.Machine

/-- The run state ST (R35). -/
inductive RunState where
  | running | halted | faulted
deriving DecidableEq, Repr

/-- The fatal faults of 60_exceptions.md R311. -/
inductive FaultCode where
  | divByZero | divOverflow | illegalInstruction | arenaExhausted | regionTableFull | callStackOverflow
deriving DecidableEq, Repr

/-- A diagnostic with its detail (60_exceptions.md R302, R303). -/
inductive Diag where
  /-- The first invalid register index. -/
  | invalidRegister (index : Nat)
  /-- The target `i + 1 + offset`, in the naturals. -/
  | invalidJumpTarget (target : Nat)
  /-- The address no live region has as its key. -/
  | regionNotFound (address : Nat)
  /-- The region's address and the offset beyond its size; offset 0 for a load. -/
  | offsetOutOfBounds (address offset : Nat)
deriving DecidableEq, Repr

/-- The payload of a TRACE record (10_state.md R51). An int32 is carried as an integer, a number in the naturals
exactly. -/
inductive Payload where
  /-- SetRegister: (reg, value). -/
  | move (reg : Nat) (value : Int)
  /-- Arithmetic and comparisons: (regA, regB, regDest, result). -/
  | alu (regA regB regDest : Nat) (result : Int)
  /-- Branches: (taken, target or next index). -/
  | branch (taken : Bool) (next : Nat)
  /-- Halt: (). -/
  | empty
  /-- AllocateMemory: (size, address). -/
  | alloc (size address : Nat)
  /-- FreeMemory: (address). -/
  | free (address : Nat)
  /-- StoreToMemory: (address, offset, byte written). -/
  | store (address offset : Nat) (byte : Byte)
  /-- LoadFromMemory: (address, regDest, value written). -/
  | load (address regDest : Nat) (value : Int)
  /-- Call: (return position pushed, target before saturation). -/
  | call (returnPos : U32) (target : Nat)
  /-- Return: (popped position). -/
  | ret (popped : U32)
deriving DecidableEq, Repr

/-- One record of Out (10_state.md R50); `i` is the index of the instruction. -/
inductive EventRecord where
  | print (i : U32) (value : Int)
  | diag (i : U32) (d : Diag)
  | fault (i : U32) (code : FaultCode)
  | trace (i : U32) (op : Byte) (payload : Payload)
deriving DecidableEq, Repr

/-- The bytes of a region by offset. Canonical form (`Memory.wf`): offsets strictly rising, no byte equal to
what an unlisted offset reads as. -/
abbrev Memory := List Host.Cell

/-- A memory region: its size, fixed at allocation, and its bytes (R38). -/
structure Region where
  size  : Nat
  cells : Memory
deriving DecidableEq, Repr

/-- `Regions`: the live regions by address (R38), addresses strictly rising. -/
abbrev Arena := List (Nat × Region)

/-- Instruction memory: the words the host has loaded, by index, indices strictly rising (R70, R345). -/
abbrev IMem := List (Nat × InstrWord)

/-- The state of the block. -/
structure State where
  /-- The OPEN parameters (00_scope.md R5); nothing changes them. -/
  config     : Config
  /-- ST (R35). -/
  st         : RunState
  /-- The program counter (R33). -/
  pc         : U32
  /-- The general registers `x[0]` to `x[7]` (R30). -/
  x          : Vector Word 8
  /-- The live regions (R38). -/
  regions    : Arena
  /-- `next_free_address` (R39). -/
  cursor     : U32
  /-- The call stack, oldest entry first (R45). -/
  cs         : List U32
  /-- The output stream, oldest record first (R50). -/
  out        : List EventRecord
  /-- FAULT_CAUSE (R55). -/
  faultCause : BitVec 8
  /-- FAULT_PC (R55). -/
  faultPc    : U32
  /-- Instruction memory (R70). -/
  imem       : IMem
  /-- PROG_LEN (R5, R63). -/
  progLen    : U32
  /-- The `reset` input (R60). -/
  resetLine  : Bool
  /-- The `run_enable` input (R60, R62). -/
  runEnable  : Bool
  /-- The host's ready side of the event-output handshake (R60, R65). -/
  eventReady : Bool
  /-- How many records of Out the host has accepted (R65). -/
  delivered  : Nat
deriving DecidableEq, Repr

/-- Why no step happens: the run has ended (log 4). A FATAL FAULT OF THE HARDWARE IS NOT ONE OF THESE: entering
FAULTED is a next state (60_exceptions.md R310). -/
inductive Fault where
  /-- Raised by `step` when ST = HALTED: the core takes no step until reset (R35, R140). Safe. -/
  | runHalted
  /-- Raised by `step` when ST = FAULTED: the core takes no step until reset (R35, R312). Safe. -/
  | runFaulted
deriving DecidableEq, Repr

/-- Why the model gives a step no meaning. -/
inductive Refusal where
  /-- Raised by `exec` for an instruction that has no meaning yet. Safe. No arm answers it. -/
  | notModelled (mnemonic : String)
  /-- Raised by `step` in a run launched with an index below PROG_LEN that the host never loaded, and names the first
  such index: a model has no meaning for that launch (70_reset_and_hazards.md R345, 93 U5; log 5). Safe. -/
  | unloadedWord (index : U32)
deriving DecidableEq, Repr

/-- The state right after power-up and reset (R340): no program loaded and PROG_LEN = 0 (R63, R345), the
OPEN parameters at `Config.standard` (log 2), the input lines ready to run (log 1). -/
def State.reset : State :=
  { config     := Config.standard
    st         := .running
    pc         := 0
    x          := Vector.replicate 8 0
    regions    := []
    cursor     := 0
    cs         := []
    out        := []
    faultCause := 0
    faultPc    := 0
    imem       := []
    progLen    := 0
    resetLine  := false
    runEnable  := true
    eventReady := true
    delivered  := 0 }

end Sys2Proof.Machine
end

