-- ==== Sys2Proof/Machine/Ops.lean ====
section
/-! DEFINITION. The named operations over the state: finite maps kept in canonical form, a region's bytes, the
arena, the register file, the call stack, the output stream, diagnostics, entry into FAULTED, reset. -/

namespace Sys2Proof.Machine

/-! ## Finite maps from a number, as lists with rising keys -/

/-- The value at a key. -/
def Assoc.get? {α : Type} : List (Nat × α) → Nat → Option α
  | [], _ => none
  | (k, v) :: l, q => if k = q then some v else Assoc.get? l q

/-- Insert or replace the value at a key, at its place in the rising order. -/
def Assoc.put {α : Type} : List (Nat × α) → Nat → α → List (Nat × α)
  | [], q, w => [(q, w)]
  | (k, v) :: l, q, w =>
    if q < k then (q, w) :: (k, v) :: l
    else if q = k then (q, w) :: l
    else (k, v) :: Assoc.put l q w

/-- Remove a key. -/
def Assoc.erase {α : Type} : List (Nat × α) → Nat → List (Nat × α)
  | [], _ => []
  | (k, v) :: l, q => if k = q then Assoc.erase l q else (k, v) :: Assoc.erase l q

/-- The least number from `i` on that is no key of `l`, counted up along `fuel` (started with `l` itself, whose length
bounds the search; a key met in its place needs no look-up). -/
def Assoc.firstAbsent {α : Type} (l : List (Nat × α)) : List (Nat × α) → Nat → Nat
  | [], i => i
  | (k, _) :: fuel, i =>
    if k == i || (Assoc.get? l i).isSome then Assoc.firstAbsent l fuel (i + 1) else i

/-- The keys strictly rise. -/
abbrev Assoc.Rising {α : Type} (l : List (Nat × α)) : Prop := l.Pairwise fun a b => a.1 < b.1

/-! ## The bytes of a region -/

/-- What an offset no store has written reads as: a new region's bytes are all 0 (20_memory.md R75). -/
def Memory.background : Byte := 0

/-- The byte at an offset. -/
def Memory.read (m : Memory) (o : Nat) : Byte := (Assoc.get? m o).getD Memory.background

/-- Set the byte at an offset; writing the background byte removes the entry. -/
def Memory.write (m : Memory) (o : Nat) (b : Byte) : Memory :=
  if b = Memory.background then Assoc.erase m o else Assoc.put m o b

/-- Canonical form: offsets strictly rise and no listed byte is the background byte. -/
abbrev Memory.wf (m : Memory) : Prop := Assoc.Rising m ∧ ∀ c ∈ m, c.2 ≠ Memory.background

/-- A region of `size` bytes, each 0 (R75). -/
def Region.fresh (size : Nat) : Region := { size := size, cells := [] }

/-- A region in canonical form: every listed offset lies below the size, which fits in a u32. -/
abbrev Region.wf (r : Region) : Prop :=
  Memory.wf r.cells ∧ (∀ c ∈ r.cells, c.1 < r.size) ∧ r.size < 2 ^ 32

/-! ## The arena (20_memory.md R72 to R77) -/

/-- `Lookup(k)`: the live region whose key is exactly `k` (R73). -/
def Arena.lookup (a : Arena) (k : Nat) : Option Region := Assoc.get? a k

/-- The byte at offset `o` of live region `k`; absent when `k` is not live or `o` is not below its size (R64, R77). -/
def Arena.byteAt (a : Arena) (k o : Nat) : Option Byte :=
  match Arena.lookup a k with
  | some r => if o < r.size then some (Memory.read r.cells o) else none
  | none => none

/-- `MemWrite(<k, o>, 1, b)`: callers have checked that `k` is live and `o` is below its size (R76). -/
def Arena.writeByte (a : Arena) (k o : Nat) (b : Byte) : Arena :=
  match Arena.lookup a k with
  | some r => Assoc.put a k { r with cells := Memory.write r.cells o b }
  | none => a

/-- `Regions[k] <- (size bytes, each 0)` (46_memory_ops.md R240, R241). -/
def Arena.allocate (a : Arena) (k size : Nat) : Arena := Assoc.put a k (Region.fresh size)

/-- Remove `k` from Regions (46_memory_ops.md R245). -/
def Arena.free (a : Arena) (k : Nat) : Arena := Assoc.erase a k

/-- Canonical form of the arena: addresses strictly rise and are u32, every region is canonical. -/
abbrev Arena.wf (a : Arena) : Prop := Assoc.Rising a ∧ ∀ e ∈ a, e.1 < 2 ^ 32 ∧ Region.wf e.2

/-- The bytes of a region in order, as a host readout gives them (for regions small enough to list). -/
def Region.bytes (r : Region) : List Byte := (List.range r.size).map (Memory.read r.cells)

/-! ## Numeric codes -/

/-- The code of a fatal fault (60_exceptions.md R311). -/
def FaultCode.code : FaultCode → BitVec 8
  | .divByZero => 0x10
  | .divOverflow => 0x11
  | .illegalInstruction => 0x20
  | .arenaExhausted => 0x30
  | .regionTableFull => 0x31
  | .callStackOverflow => 0x32

/-- The code of a diagnostic (60_exceptions.md R302). -/
def Diag.code : Diag → BitVec 8
  | .invalidRegister _ => 0x01
  | .invalidJumpTarget _ => 0x02
  | .regionNotFound _ => 0x03
  | .offsetOutOfBounds _ _ => 0x04

/-- The status-map encoding of ST (10_state.md R63). -/
def RunState.code : RunState → BitVec 32
  | .running => 0
  | .halted => 1
  | .faulted => 2

/-! ## The register file (R30) -/

/-- `x[r]`; callers have checked `r < 8`. -/
def State.reg (s : State) (r : Nat) : Word := if h : r < 8 then s.x[r] else 0

/-- `x[r] <- v`; callers have checked `r < 8`. -/
def State.setReg (s : State) (r : Nat) (v : Word) : State :=
  if h : r < 8 then { s with x := s.x.set r v } else s

/-! ## The program counter -/

/-- `i`, the index of the executing instruction: while it executes, `pc` holds `i + 1` (R33). -/
def State.index (s : State) : U32 := s.pc - 1

/-- `pc <- i + 1`, the fetch increment (40_dispatch.md R131). -/
def State.advance (s : State) : State := { s with pc := s.pc + 1 }

/-- `pc <- t`. -/
def State.setPc (s : State) (t : U32) : State := { s with pc := t }

/-! ## The output stream (R50) -/

/-- `emit(E)`: append a record to Out. -/
def State.emit (s : State) (e : EventRecord) : State := { s with out := s.out ++ [e] }

/-- Emit the TRACE record of the executing instruction. -/
def State.trace (s : State) (op : Byte) (p : Payload) : State := s.emit (.trace s.index op p)

/-- `diag(code, detail)`: append DIAG(i, code, detail) and end the instruction with no other effect (R301). -/
def State.diag (s : State) (d : Diag) : State := s.emit (.diag s.index d)

/-! ## Entry into FAULTED (60_exceptions.md R310) -/

/-- `raise Fault(code)`: FAULT_CAUSE, FAULT_PC = i and ST = FAULTED are written and FAULT(i, code) is appended;
nothing else changes and `pc` keeps `i + 1`. No handler runs and no instruction returns from it (R312, R321):
the only way back is `State.applyReset`. -/
def State.raise (s : State) (c : FaultCode) : State :=
  { s with
    faultCause := c.code
    faultPc := s.index
    st := .faulted
    out := s.out ++ [.fault s.index c] }

/-- ST <- HALTED. -/
def State.halt (s : State) : State := { s with st := .halted }

/-! ## The call stack (R45) -/

/-- A push would exceed CALL_DEPTH (47_call_return.md R270). -/
def State.callStackFull (s : State) : Bool := decide (s.config.callDepth ≤ s.cs.length)

/-- `CS.push(v)` appends to the end. -/
def State.pushCall (s : State) (v : U32) : State := { s with cs := s.cs ++ [v] }

/-- `CS.pop()`: the last pushed position and the state without it; nothing if empty. -/
def State.popCall (s : State) : Option (U32 × State) :=
  match s.cs.getLast? with
  | some v => some (v, { s with cs := s.cs.dropLast })
  | none => none

/-! ## Arena operations on the state -/

/-- cursor + size > ARENA_LIMIT, in the naturals (46_memory_ops.md R240). -/
def State.arenaExhausted (s : State) (size : Nat) : Bool :=
  decide (s.config.arenaLimit.toNat < s.cursor.toNat + size)

/-- The cursor is not a key and a new key would exceed MAX_REGIONS (46_memory_ops.md R240). -/
def State.regionTableFull (s : State) : Bool :=
  (Arena.lookup s.regions s.cursor.toNat).isNone && !s.config.regionsFit (s.regions.length + 1)

/-! ## Instruction memory -/

/-- `IMemRead(i)`: the word at an index, `none` where the host never loaded one (20_memory.md R70, R345). -/
def State.imemRead (s : State) (i : U32) : Option InstrWord := Assoc.get? s.imem i.toNat

/-- The least index below PROG_LEN that the host never loaded, if there is one: a model has no launch with such an index
(70_reset_and_hazards.md R345, 93 U5). -/
def State.firstUnloaded (s : State) : Option U32 :=
  let i := Assoc.firstAbsent s.imem s.imem 0
  if i < s.progLen.toNat then some (BitVec.ofNat 32 i) else none

/-! ## Reset (70_reset_and_hazards.md R340) -/

/-- Every state element takes its reset value; instruction memory, PROG_LEN, the parameters and the input lines
keep theirs. -/
def State.applyReset (s : State) : State :=
  { s with
    st := .running
    pc := 0
    x := Vector.replicate 8 0
    regions := []
    cursor := 0
    cs := []
    out := []
    faultCause := 0
    faultPc := 0
    delivered := 0 }

/-! ## The event-output port (R65) -/

/-- A record of Out waits for the host to accept it: the step that appended it is not complete. -/
def State.recordWaiting (s : State) : Bool := decide (s.delivered < s.out.length)

/-- The host accepts the oldest waiting record. -/
def State.acceptRecord (s : State) : State := { s with delivered := s.delivered + 1 }

/-- The end of a step: with the host ready, the record the step appended is accepted at once (log 7). -/
def State.offerRecord (s : State) : State :=
  if s.eventReady && s.recordWaiting then s.acceptRecord else s

end Sys2Proof.Machine
end

