-- ==== Sys2Proof/Machine/Operands.lean ====
section
/-! DEFINITION. Operand forms: register-index checks (40_dispatch.md R136), the byte and word conversions between
a register and the arena (00_scope.md R7, 20_memory.md R83), branch and call targets (44_branch.md R210,
47_call_return.md R271), and the dispatch signals of 30_encoding.md R110. -/

namespace Sys2Proof.Machine

/-- The outcome of a step of this machine. -/
abbrev Result := Host.Outcome State Fault Refusal

/-- An index below 8 names a register (R30, R31). -/
def validReg (r : Nat) : Bool := decide (r < 8)

/-- The first register operand that names no register, in the order given. -/
def firstInvalid : List Nat → Option Nat
  | [] => none
  | r :: rs => if validReg r then firstInvalid rs else some r

/-- Phase 1 of every handler: at the first invalid register operand, report INVALID_REGISTER with that index and end
the instruction; otherwise go on (R135, R136). -/
def checkRegs (rs : List Nat) (s : State) (go : Result) : Result :=
  match firstInvalid rs with
  | some r => .next (s.diag (.invalidRegister r))
  | none => go

/-- `trunc_8(v) = u32(v)[7:0]` (R7). -/
def trunc8 (v : Word) : Byte := v.extractLsb' 0 8

/-- `zext_32(b)`: 24 zero bits, then the 8 bits of `b` (R7). -/
def zext32 (b : Byte) : Word := b.setWidth 32

/-- The target `pc + offset` in the naturals, `pc` being the post-fetch value (44_branch.md R210). -/
def State.target (s : State) (offset : Nat) : Nat := s.pc.toNat + offset

/-- A branch target is valid when it is below PROG_LEN (44_branch.md R210). -/
def State.targetInProgram (s : State) (t : Nat) : Bool := decide (t < s.progLen.toNat)

/-- A Call target that does not fit in 32 bits is saturated to 2^32 - 1 (47_call_return.md R271). -/
def saturate32 (t : Nat) : U32 := BitVec.ofNat 32 (min t (2 ^ 32 - 1))

/-! ## The register operands of an instruction, in the order they are checked (R136) -/

/-- regA, regB, regDest for the ABD instructions; the single register operand of the others that have one. -/
def checkedRegs : Instr → List Nat
  | .setRegister reg _ => [reg]
  | .add a b d => [a, b, d]
  | .sub a b d => [a, b, d]
  | .mul a b d => [a, b, d]
  | .div a b d => [a, b, d]
  | .mod a b d => [a, b, d]
  | .eq a b d => [a, b, d]
  | .neq a b d => [a, b, d]
  | .gt a b d => [a, b, d]
  | .lt a b d => [a, b, d]
  | .gte a b d => [a, b, d]
  | .lte a b d => [a, b, d]
  | .jump _ => []
  | .jumpIfZero reg _ => [reg]
  | .jumpIfNonZero reg _ => [reg]
  | .print reg => [reg]
  | .halt => []
  | .allocateMemory _ => []
  | .freeMemory _ => []
  | .storeToMemory _ reg _ => [reg]
  | .loadFromMemory _ regDest => [regDest]
  | .call _ => []
  | .ret => []

/-- The execution units of R110. -/
inductive ExecUnit where
  | move | alu | aluDivider | aluComparator | branch | output | halt | arena | callStackBranch | callStack
deriving DecidableEq, Repr

/-- The dispatch signals of R110: the unit, the register-file ports and the immediates in use. -/
structure Signals where
  unit : ExecUnit
  readsRA : Bool
  readsRB : Bool
  writesRD : Bool
  usesImmA : Bool
  usesImmB : Bool
deriving DecidableEq, Repr

/-- The table of R110. -/
def signalsOf : Instr → Signals
  | .setRegister _ _ => ⟨.move, false, false, true, true, false⟩
  | .add _ _ _ => ⟨.alu, true, true, true, false, false⟩
  | .sub _ _ _ => ⟨.alu, true, true, true, false, false⟩
  | .mul _ _ _ => ⟨.alu, true, true, true, false, false⟩
  | .div _ _ _ => ⟨.aluDivider, true, true, true, false, false⟩
  | .mod _ _ _ => ⟨.aluDivider, true, true, true, false, false⟩
  | .eq _ _ _ => ⟨.aluComparator, true, true, true, false, false⟩
  | .neq _ _ _ => ⟨.aluComparator, true, true, true, false, false⟩
  | .gt _ _ _ => ⟨.aluComparator, true, true, true, false, false⟩
  | .lt _ _ _ => ⟨.aluComparator, true, true, true, false, false⟩
  | .gte _ _ _ => ⟨.aluComparator, true, true, true, false, false⟩
  | .lte _ _ _ => ⟨.aluComparator, true, true, true, false, false⟩
  | .jump _ => ⟨.branch, false, false, false, true, false⟩
  | .jumpIfZero _ _ => ⟨.branch, true, false, false, true, false⟩
  | .jumpIfNonZero _ _ => ⟨.branch, true, false, false, true, false⟩
  | .print _ => ⟨.output, true, false, false, false, false⟩
  | .halt => ⟨.halt, false, false, false, false, false⟩
  | .allocateMemory _ => ⟨.arena, false, false, false, true, false⟩
  | .freeMemory _ => ⟨.arena, false, false, false, true, false⟩
  | .storeToMemory _ _ _ => ⟨.arena, true, false, false, true, true⟩
  | .loadFromMemory _ _ => ⟨.arena, false, false, true, true, false⟩
  | .call _ => ⟨.callStackBranch, false, false, false, true, false⟩
  | .ret => ⟨.callStack, false, false, false, false, false⟩

end Sys2Proof.Machine
end

