-- ==== Sys2Proof/Machine/Flags.lean ====
section
/-! DEFINITION. The core has no flags, condition codes or predicate registers (10_state.md R37). What other
machines keep in flags, this one computes as a word: a comparison's outcome, int32 1 or 0, written to a general
register (43_compare.md R190), and the zero test of the conditional branches (44_branch.md R212, R214). -/

namespace Sys2Proof.Machine

/-- A predicate's outcome encoded as int32 1 or 0 (R190). -/
def boolWord (p : Bool) : Word := if p then 1 else 0

/-- a = b (R191). -/
def eqWord (a b : Word) : Word := boolWord (decide (s32 a = s32 b))
/-- a ≠ b (R192). -/
def neqWord (a b : Word) : Word := boolWord (decide (s32 a ≠ s32 b))
/-- a > b, signed (R193). -/
def gtWord (a b : Word) : Word := boolWord (decide (s32 b < s32 a))
/-- a < b, signed (R194). -/
def ltWord (a b : Word) : Word := boolWord (decide (s32 a < s32 b))
/-- a ≥ b, signed (R195). -/
def gteWord (a b : Word) : Word := boolWord (decide (s32 b ≤ s32 a))
/-- a ≤ b, signed (R196). -/
def lteWord (a b : Word) : Word := boolWord (decide (s32 a ≤ s32 b))

/-- The test of the conditional branches: the register's value is 0. -/
def isZero (v : Word) : Bool := decide (s32 v = 0)

end Sys2Proof.Machine
end

