-- ==== Sys2Proof/Machine/Arithmetic.lean ====
section
/-! DEFINITION. Arithmetic (42_arithmetic.md): exact integer results, narrowed at the end. -/

namespace Sys2Proof.Machine

/-- An instruction of format ABD whose result may fault: register checks, both reads, the operation's own checks, the
write, the TRACE record (R135, R136, R137; `ArithPrefix`). -/
def execABD (op : Byte) (f : Word → Word → Except FaultCode Word) (a b d : Nat) (s : State) : Result :=
  checkRegs [a, b, d] s <|
    match f (s.reg a) (s.reg b) with
    | .error c => .next (s.raise c)
    | .ok v => .next ((s.setReg d v).trace op (.alu a b d (s32 v)))

/-- `wrap32(a + b)` (R170, R171). -/
def addWord (a b : Word) : Word := wrap32 (s32 a + s32 b)
/-- `wrap32(a - b)` (R171, R172). -/
def subWord (a b : Word) : Word := wrap32 (s32 a - s32 b)
/-- `wrap32(a * b)` (R171, R174). -/
def mulWord (a b : Word) : Word := wrap32 (s32 a * s32 b)

/-- The two fatal checks of Div and Mod, in R330's order, around an integer operation (R176, R178). -/
def divCheck (f : Int → Int → Int) (a b : Word) : Except FaultCode Word :=
  if s32 b = 0 then .error .divByZero
  else if s32 a = -2 ^ 31 ∧ s32 b = -1 then .error .divOverflow
  else .ok (wrap32 (f (s32 a) (s32 b)))

/-- `tdiv(a, b)`: the quotient rounded toward zero (00_scope.md R9). -/
def tdiv (a b : Int) : Int := Int.tdiv a b
/-- `trem(a, b) = a - b * tdiv(a, b)` (00_scope.md R9). -/
def trem (a b : Int) : Int := a - b * tdiv a b

/-- Add (R170). -/
def execAdd (a b d : Nat) (s : State) : Result := execABD 0x02 (fun p q => .ok (addWord p q)) a b d s
/-- Sub: regA - regB (R172). -/
def execSub (a b d : Nat) (s : State) : Result := execABD 0x03 (fun p q => .ok (subWord p q)) a b d s
/-- Mul (R174). -/
def execMul (a b d : Nat) (s : State) : Result := execABD 0x04 (fun p q => .ok (mulWord p q)) a b d s
/-- Div: regA by regB, truncating (R176, R177). -/
def execDiv (a b d : Nat) (s : State) : Result := execABD 0x05 (divCheck tdiv) a b d s
/-- Mod: the truncating remainder (R178, R179). -/
def execMod (a b d : Nat) (s : State) : Result := execABD 0x06 (divCheck trem) a b d s

end Sys2Proof.Machine
end

