-- ==== Sys2Proof/Machine/Branch.lean ====
section
/-! DEFINITION. Branches (44_branch.md). `pc` holds the post-fetch value `i + 1` on entry. -/

namespace Sys2Proof.Machine

/-- `DoJump(off)`: the target in the naturals, taken when below PROG_LEN, otherwise reported with `pc` unchanged (R210). -/
def doJump (op : Byte) (offset : Nat) (s : State) : Result :=
  if s.targetInProgram (s.target offset) then
    .next ((s.trace op (.branch true (s.target offset))).setPc (BitVec.ofNat 32 (s.target offset)))
  else .next (s.diag (.invalidJumpTarget (s.target offset)))

/-- A branch not taken: no bound check, `pc` stays `i + 1` (R213). -/
def notTaken (op : Byte) (s : State) : Result := .next (s.trace op (.branch false s.pc.toNat))

/-- Jump (R211). -/
def execJump (offset : Nat) (s : State) : Result := doJump 0x0D offset s

/-- JumpIfZero (R212). -/
def execJumpIfZero (reg offset : Nat) (s : State) : Result :=
  checkRegs [reg] s <| if isZero (s.reg reg) then doJump 0x0E offset s else notTaken 0x0E s

/-- JumpIfNonZero (R214). -/
def execJumpIfNonZero (reg offset : Nat) (s : State) : Result :=
  checkRegs [reg] s <| if isZero (s.reg reg) then notTaken 0x0F s else doJump 0x0F offset s

end Sys2Proof.Machine
end

