-- ==== Sys2Proof/Machine/CallReturn.lean ====
section
/-! DEFINITION. Subroutine linkage (47_call_return.md). -/

namespace Sys2Proof.Machine

/-- Call(offset): push the post-fetch `pc`, then go forward with no bound check, saturating at 2^32 - 1; a full call
stack is the fault CALL_STACK_OVERFLOW (R270, R271). -/
def execCall (offset : Nat) (s : State) : Result :=
  if s.callStackFull then .next (s.raise .callStackOverflow)
  else
    .next (((s.pushCall s.pc).trace 0x16 (.call s.pc (s.target offset))).setPc
      (saturate32 (s.target offset)))

/-- Return: resume at the most recent return position (R272); on an empty stack nothing changes and nothing is
emitted (R273). -/
def execReturn (s : State) : Result :=
  match s.popCall with
  | none => .next s
  | some (v, s') => .next ((s'.trace 0x17 (.ret v)).setPc v)

end Sys2Proof.Machine
end

