-- ==== Sys2Proof/Machine/Compare.lean ====
section
/-! DEFINITION. Comparisons (43_compare.md): signed, regA on the left, result 1 or 0; they cannot fault (R190). -/

namespace Sys2Proof.Machine

/-- Eq (R191). -/
def execEq (a b d : Nat) (s : State) : Result := execABD 0x07 (fun p q => .ok (eqWord p q)) a b d s
/-- Neq (R192). -/
def execNeq (a b d : Nat) (s : State) : Result := execABD 0x08 (fun p q => .ok (neqWord p q)) a b d s
/-- Gt (R193). -/
def execGt (a b d : Nat) (s : State) : Result := execABD 0x09 (fun p q => .ok (gtWord p q)) a b d s
/-- Lt (R194). -/
def execLt (a b d : Nat) (s : State) : Result := execABD 0x0A (fun p q => .ok (ltWord p q)) a b d s
/-- Gte (R195). -/
def execGte (a b d : Nat) (s : State) : Result := execABD 0x0B (fun p q => .ok (gteWord p q)) a b d s
/-- Lte (R196). -/
def execLte (a b d : Nat) (s : State) : Result := execABD 0x0C (fun p q => .ok (lteWord p q)) a b d s

end Sys2Proof.Machine
end

