-- ==== Sys2Proof/Machine/MemoryOps.lean ====
section
/-! DEFINITION. Memory arena operations (46_memory_ops.md). -/

namespace Sys2Proof.Machine

/-- AllocateMemory(size): a zero-filled region at the cursor, or one of the two capacity faults (R240, R241). -/
def execAllocateMemory (size : Nat) (s : State) : Result :=
  if s.arenaExhausted size then .next (s.raise .arenaExhausted)
  else if s.regionTableFull then .next (s.raise .regionTableFull)
  else
    .next (State.trace
      { s with
        regions := Arena.allocate s.regions s.cursor.toNat size
        cursor := BitVec.ofNat 32 (s.cursor.toNat + size) }
      0x12 (.alloc size s.cursor.toNat))

/-- FreeMemory(address): remove a live region, the cursor unchanged (R245). -/
def execFreeMemory (address : Nat) (s : State) : Result :=
  match Arena.lookup s.regions address with
  | none => .next (s.diag (.regionNotFound address))
  | some _ =>
    .next (State.trace { s with regions := Arena.free s.regions address } 0x13 (.free address))

/-- StoreToMemory(address, reg, offset): store the low byte of a register (R250, R251). -/
def execStoreToMemory (address reg offset : Nat) (s : State) : Result :=
  checkRegs [reg] s <|
    match Arena.lookup s.regions address with
    | none => .next (s.diag (.regionNotFound address))
    | some r =>
      if offset < r.size then
        .next (State.trace
          { s with regions := Arena.writeByte s.regions address offset (trunc8 (s.reg reg)) }
          0x14 (.store address offset (trunc8 (s.reg reg))))
      else .next (s.diag (.offsetOutOfBounds address offset))

/-- LoadFromMemory(address, regDest): load byte 0 of a region, zero-extended; a size-0 region is a bounds failure
(R260, R261). -/
def execLoadFromMemory (address regDest : Nat) (s : State) : Result :=
  checkRegs [regDest] s <|
    match Arena.lookup s.regions address with
    | none => .next (s.diag (.regionNotFound address))
    | some r =>
      if r.size = 0 then .next (s.diag (.offsetOutOfBounds address 0))
      else
        .next ((s.setReg regDest (zext32 (Memory.read r.cells 0))).trace
          0x15 (.load address regDest (s32 (zext32 (Memory.read r.cells 0)))))

end Sys2Proof.Machine
end

