-- ==== Sys2Proof/Machine/OutputHalt.lean ====
section
/-! DEFINITION. Output and halt control (45_output_halt.md). -/

namespace Sys2Proof.Machine

/-- Print(reg): append PRINT(i, x[reg]) (R230, R231). -/
def execPrint (reg : Nat) (s : State) : Result :=
  checkRegs [reg] s <| .next (s.emit (.print s.index (s32 (s.reg reg))))

/-- Halt: ST <- HALTED; `pc` keeps `i + 1` (R232). -/
def execHalt (s : State) : Result := .next (s.halt.trace 0x11 .empty)

end Sys2Proof.Machine
end

