-- ==== Sys2Proof/Machine/Register.lean ====
section
/-! DEFINITION. Register move (41_register.md). A meaning runs on the state after the fetch increment: `pc` is
`i + 1`. -/

namespace Sys2Proof.Machine

/-- SetRegister(reg, value): `x[reg] <- value` (R160). -/
def execSetRegister (reg : Nat) (value : Int) (s : State) : Result :=
  checkRegs [reg] s <|
    .next ((s.setReg reg (wrap32 value)).trace 0x01 (.move reg value))

end Sys2Proof.Machine
end

