-- ==== Sys2Proof/Machine/Dispatch.lean ====
section
/-! DEFINITION. One handler per instruction (40_dispatch.md R133). `s` is the state after the fetch increment. -/

namespace Sys2Proof.Machine

def exec (i : Instr) (s : State) : Host.Outcome State Fault Refusal :=
  match i with
  | .setRegister reg value => Sys2Proof.Machine.execSetRegister reg value s
  | .add a b d => Sys2Proof.Machine.execAdd a b d s
  | .sub a b d => Sys2Proof.Machine.execSub a b d s
  | .mul a b d => Sys2Proof.Machine.execMul a b d s
  | .div a b d => Sys2Proof.Machine.execDiv a b d s
  | .mod a b d => Sys2Proof.Machine.execMod a b d s
  | .eq a b d => Sys2Proof.Machine.execEq a b d s
  | .neq a b d => Sys2Proof.Machine.execNeq a b d s
  | .gt a b d => Sys2Proof.Machine.execGt a b d s
  | .lt a b d => Sys2Proof.Machine.execLt a b d s
  | .gte a b d => Sys2Proof.Machine.execGte a b d s
  | .lte a b d => Sys2Proof.Machine.execLte a b d s
  | .jump offset => Sys2Proof.Machine.execJump offset s
  | .jumpIfZero reg offset => Sys2Proof.Machine.execJumpIfZero reg offset s
  | .jumpIfNonZero reg offset => Sys2Proof.Machine.execJumpIfNonZero reg offset s
  | .print reg => Sys2Proof.Machine.execPrint reg s
  | .halt => Sys2Proof.Machine.execHalt s
  | .allocateMemory size => Sys2Proof.Machine.execAllocateMemory size s
  | .freeMemory address => Sys2Proof.Machine.execFreeMemory address s
  | .storeToMemory address reg offset => Sys2Proof.Machine.execStoreToMemory address reg offset s
  | .loadFromMemory address regDest => Sys2Proof.Machine.execLoadFromMemory address regDest s
  | .call offset => Sys2Proof.Machine.execCall offset s
  | .ret => Sys2Proof.Machine.execReturn s

end Sys2Proof.Machine
end

