-- ==== Sys2Proof/Machine/Cycle.lean ====
section
/-! DEFINITION. When a step happens, and the step itself (40_dispatch.md R130 to R140), with the gating by the
block's inputs (10_state.md R60, R62, R65). -/

namespace Sys2Proof.Machine

/-- A step can start: ST = RUNNING, `run_enable` asserted, no earlier step incomplete, `reset` deasserted (R130). -/
def State.canStart (s : State) : Bool :=
  s.st == .running && s.runEnable && !s.recordWaiting && !s.resetLine

/-- The end of a step: offer the record it appended to the event-output port (R65). -/
def completeStep : Result → Result
  | .next t => .next t.offerRecord
  | .fault r => .fault r
  | .refused r => .refused r

/-- Decode and execute a fetched word, `s` being the state after the increment: an illegal word raises
ILLEGAL_INSTRUCTION (R132), a legal one selects one handler (R133). -/
def runWord (w : InstrWord) (s : State) : Result :=
  match decode w with
  | .error _ => .next (s.raise .illegalInstruction)
  | .ok d => exec d s

/-- One step of a program: halt past its end (R130), otherwise fetch, increment, decode, execute (R131). Of a program
whose every word is loaded, the fetch finds a word (Laws/Cycle.lean `imemRead_of_loaded`). -/
def runProgram (s : State) : Result :=
  if s.progLen.toNat ≤ s.pc.toNat then .next s.halt
  else
    match s.imemRead s.pc with
    | none => .refused (.unloadedWord s.pc)
    | some w => completeStep (runWord w s.advance)

/-- A step that starts. With an unloaded word anywhere below PROG_LEN no step has a meaning, whatever `pc` is: such a
launch is refused (70_reset_and_hazards.md R345, 93 U5; log 5). -/
def runStep (s : State) : Result :=
  match s.firstUnloaded with
  | some i => .refused (.unloadedWord i)
  | none => runProgram s

/-- One transition of the block. While `reset` is asserted the state is held at its reset values (R60); an incomplete
step completes when the host accepts its record (R65); in HALTED and FAULTED the core takes no step (R35, R140; log 4);
without `run_enable` the state is held (R62). -/
def cycle (s : State) : Result :=
  if s.resetLine then .next s.applyReset
  else if s.recordWaiting then .next s.offerRecord
  else
    match s.st with
    | .halted => .fault .runHalted
    | .faulted => .fault .runFaulted
    | .running => if s.runEnable then runStep s else .next s

/-- `s` with a word loaded at index `i`, `pc` there, and PROG_LEN at `n`. -/
def State.loadAt (s : State) (i n : U32) (w : InstrWord) : State :=
  { s with pc := i, imem := Assoc.put s.imem i.toNat w, progLen := n }

/-- The block free to start a step: RUNNING, every record accepted, `reset` deasserted, `run_enable` asserted. -/
def State.ready (s : State) : State :=
  { s with st := .running, resetLine := false, runEnable := true, delivered := max s.delivered s.out.length }

/-- The state with a word loaded at `pc`, the index the next step fetches, PROG_LEN reaching past it, and the block free
to start that step. Where that leaves no program a step runs (a word below PROG_LEN not loaded, R345, or the `pc` no
program can contain, 2^32 - 1), the word is the whole program: index 0, PROG_LEN 1. -/
def State.placeWord (s : State) (w : InstrWord) : State :=
  let t := s.loadAt s.pc (if s.pc.toNat < s.progLen.toNat then s.progLen else s.pc + 1) w
  if t.pc.toNat < t.progLen.toNat ∧ t.firstUnloaded.isNone then t.ready else (s.loadAt 0 1 w).ready

end Sys2Proof.Machine
end

