-- ==== Sys2Proof/Machine/HostPort.lean ====
section
/-! DEFINITION. The host's side of the block (10_state.md R60 to R66): its moves between steps, the status map, the
arena-read port, the event-output port, the boot order (70_reset_and_hazards.md R344), and what is observed at the end
of a run (R363). -/

namespace Sys2Proof.Machine

/-- What the host can do to the block between two transitions. -/
inductive HostMove where
  | assertReset
  | releaseReset
  /-- Program-load port: one `(index, word)` pair. -/
  | loadWord (index : Nat) (word : InstrWord)
  /-- Program-load port: the value of PROG_LEN. -/
  | loadLength (n : U32)
  | setRunEnable (b : Bool)
  /-- The host's ready side of the event-output port. -/
  | setEventReady (b : Bool)
deriving DecidableEq, Repr

/-- A host move. Asserting `reset` at any time abandons the run (R343). Releasing it launches the program as loaded: with
an unloaded word below PROG_LEN there is no such launch (70_reset_and_hazards.md R345, 93 U5; log 5). A load outside
reset is ignored (R61); a load beyond IMEM_DEPTH is no move of the model (log 12). -/
def State.hostMove (s : State) : HostMove → Option State
  | .assertReset => some { s.applyReset with resetLine := true }
  | .releaseReset =>
    if s.resetLine && s.firstUnloaded.isSome then none else some { s with resetLine := false }
  | .loadWord i w =>
    if !s.resetLine then some s
    else if i < s.config.imemDepth.toNat then some { s with imem := Assoc.put s.imem i w }
    else none
  | .loadLength n =>
    if !s.resetLine then some s
    else if n.toNat ≤ s.config.imemDepth.toNat then some { s with progLen := n }
    else none
  | .setRunEnable b => some { s with runEnable := b }
  | .setEventReady b => some { s with eventReady := b }

/-- A sequence of host moves. -/
def State.hostMoves (s : State) : List HostMove → Option State
  | [] => some s
  | m :: ms =>
    match s.hostMove m with
    | some t => t.hostMoves ms
    | none => none

/-- The load moves of a program, from an index on. -/
def loadMoves (start : Nat) : List InstrWord → List HostMove
  | [] => []
  | w :: ws => .loadWord start w :: loadMoves (start + 1) ws

/-- The boot order of R344: assert `reset`, write the words and PROG_LEN, deassert `reset`, assert `run_enable`, accept
records as they come. -/
def bootMoves (program : List InstrWord) : List HostMove :=
  [.assertReset] ++ loadMoves 0 program ++
    [.loadLength (BitVec.ofNat 32 program.length), .releaseReset, .setRunEnable true, .setEventReady true]

/-! ## Reads -/

/-- The host may read registers, status and arena: no step is in progress, and ST has left RUNNING or no step can
start (R64; while `reset` is asserted none can, log 11). -/
def State.readable (s : State) : Bool :=
  !s.recordWaiting && (s.resetLine || s.st != .running || !s.runEnable)

/-- The status map: the 32-bit word at a number, 0 where none is assigned (R63). -/
def State.statusWord (s : State) (n : Nat) : BitVec 32 :=
  match n with
  | 0x00 => s.st.code
  | 0x01 => s.pc
  | 0x02 => s.faultCause.setWidth 32
  | 0x03 => s.faultPc
  | 0x04 => s.cursor
  | 0x05 => BitVec.ofNat 32 s.cs.length
  | 0x06 => s.progLen
  | 0x07 => BitVec.ofNat 32 s.regions.length
  | n =>
    if n < 0x10 then s.reg (n - 8)
    else if n < 0x10 + s.config.callDepth then (s.cs[n - 0x10]?).getD 0
    else 0

/-- Status-read port: the status word, when the host may read (R64; otherwise there is no such read, 93 U6). -/
def State.readStatus (s : State) (n : Nat) : Option (BitVec 32) :=
  if s.readable then some (s.statusWord n) else none

/-- `l` is a listing of the live regions the arena-read port may give: the `(address, size)` pairs in any order
(R64, 93 U2; log 10). -/
def State.isRegionListing (s : State) (l : List (Nat × Nat)) : Bool :=
  s.readable && l.isPerm (s.regions.map fun e => (e.1, e.2.size))

/-- Arena-read port: the byte at `(address, offset)`. The outer `none` is "no such read now", the inner one the port's
answer "absent" (R64). -/
def State.readArenaByte (s : State) (address offset : Nat) : Option (Option Byte) :=
  if s.readable then some (Arena.byteAt s.regions address offset) else none

/-- Event-output port: the record presented to the host, if one waits (R65). -/
def State.presentedRecord (s : State) : Option EventRecord := s.out[s.delivered]?

/-- What the host observes at the end of a run (R363). -/
structure Observation where
  st         : RunState
  faultCause : BitVec 8
  faultPc    : U32
  x          : Vector Word 8
  regions    : Arena
  cursor     : U32
  cs         : List U32
  out        : List EventRecord
  pc         : U32
deriving DecidableEq, Repr

/-- The observation of a run that has ended (R363). -/
def State.observe (s : State) : Option Observation :=
  if s.st = .running then none
  else some ⟨s.st, s.faultCause, s.faultPc, s.x, s.regions, s.cursor, s.cs, s.out, s.pc⟩

end Sys2Proof.Machine
end

