-- ==== Sys2Proof/Safety.lean ====
section
/-! DEFINITION. What a reachable state satisfies, in the terms the claims use: the invariants of 10_state.md R40, R41,
R52, R55, R65 and 70_reset_and_hazards.md R360, and what makes a run one the model gives a meaning to. -/

namespace Sys2Proof.Machine

/-- The program is one the block can hold: the parameters meet R5, the loaded indices rise and lie below IMEM_DEPTH, and
PROG_LEN ≤ IMEM_DEPTH (R5, R70). -/
abbrev State.ProgramInv (s : State) : Prop :=
  s.config.wf ∧ Assoc.Rising s.imem ∧ (∀ e ∈ s.imem, e.1 < s.config.imemDepth.toNat) ∧
    s.progLen.toNat ≤ s.config.imemDepth.toNat

/-- Every index below PROG_LEN is loaded (R345). -/
def State.ProgramLoaded (s : State) : Prop :=
  ∀ i, i < s.progLen.toNat → (Assoc.get? s.imem i).isSome

/-- No run is under way of a program with a word missing: outside reset every index below PROG_LEN is loaded (R345,
93 U5). -/
def State.LaunchInv (s : State) : Prop := s.resetLine = false → s.ProgramLoaded

/-- The arena is in canonical form; every region ends at or below the cursor and no two spans overlap (R40, restated in
90 C3); the capacities hold (R41). -/
abbrev State.ArenaInv (s : State) : Prop :=
  Arena.wf s.regions ∧
    (∀ e ∈ s.regions, e.1 + e.2.size ≤ s.cursor.toNat) ∧
    (s.regions.Pairwise fun a b => a.1 + a.2.size ≤ b.1) ∧
    s.cursor.toNat ≤ s.config.arenaLimit.toNat ∧
    s.config.regionsFit s.regions.length = true

/-- The call stack strictly rises, each entry lies in [1, PROG_LEN] and none is above `pc` (R360); its depth is within
CALL_DEPTH (R45). -/
abbrev State.ControlInv (s : State) : Prop :=
  (s.cs.Pairwise fun a b => a.toNat < b.toNat) ∧
    (∀ e ∈ s.cs, 1 ≤ e.toNat ∧ e.toNat ≤ s.progLen.toNat ∧ e.toNat ≤ s.pc.toNat) ∧
    s.cs.length ≤ s.config.callDepth

/-- The record is a FAULT record. -/
def EventRecord.isFault : EventRecord → Bool
  | .fault _ _ => true
  | _ => false

/-- FAULT_CAUSE and FAULT_PC say what happened exactly when ST = FAULTED (R55, 60_exceptions.md R310): in FAULTED the
cause is a code of R311, FAULT_PC is the faulting index, `pc` is the one after it, and the FAULT record is the last of
Out; otherwise both are 0 and Out holds no FAULT record. -/
def State.FaultInv (s : State) : Prop :=
  if s.st = .faulted then
    (∃ c : FaultCode, s.faultCause = c.code ∧ s.out.getLast? = some (.fault s.faultPc c)) ∧
      s.faultPc.toNat + 1 = s.pc.toNat ∧ s.faultPc.toNat < s.progLen.toNat
  else
    s.faultCause = 0 ∧ s.faultPc = 0 ∧ ∀ e ∈ s.out, e.isFault = false

/-- At most the last record of Out is still waiting for the host (R65). -/
abbrev State.OutInv (s : State) : Prop :=
  s.delivered ≤ s.out.length ∧ s.out.length ≤ s.delivered + 1

/-- All of them. -/
structure State.Inv (s : State) : Prop where
  program : s.ProgramInv
  arena   : s.ArenaInv
  control : s.ControlInv
  fault   : s.FaultInv
  out     : s.OutInv

/-- The run has ended (R363). -/
def State.ended (s : State) : Bool := s.st != .running

/-- Everything but the host's side of a run: what two runs of one program share whatever the host's pauses and delays
(R62, R65, R141). The input lines are set to "go on" and every record counts as accepted. -/
def State.core (s : State) : State :=
  { s with runEnable := true, eventReady := true, delivered := s.out.length }

end Sys2Proof.Machine
end

