-- ==== Sys2Proof/Certificates/Slice0/Obligations.lean ====
section
/-! DEFINITION. The statements for the provers, and the few words they share. `s` is always the state an instruction runs
on: the one after the fetch increment, so the executing instruction's index `i` is `s.pc - 1` (10_state.md R33). -/

namespace Sys2Proof.Claims

open Sys2Proof Sys2Proof.Machine

/-- `w[hi:lo]`, read as an unsigned number (00_scope.md R6). -/
def bits (w : InstrWord) (hi lo : Nat) : Nat := w.toNat / 2 ^ lo % 2 ^ (hi + 1 - lo)

/-- A 32-bit number read as two's complement (00_scope.md R7). -/
def signed32 (n : Nat) : Int := if n < 2 ^ 31 then n else (n : Int) - 2 ^ 32

/-- `(match, mask)` of every row of opcode_table.json, in its order. -/
def opcodeRows : List (InstrWord × InstrWord) :=
  [ (0x010000000000000000000000, 0xFFFFFF0000000000FFFFFFFF),
    (0x020000000000000000000000, 0xFF000000FFFFFFFFFFFFFFFF),
    (0x030000000000000000000000, 0xFF000000FFFFFFFFFFFFFFFF),
    (0x040000000000000000000000, 0xFF000000FFFFFFFFFFFFFFFF),
    (0x050000000000000000000000, 0xFF000000FFFFFFFFFFFFFFFF),
    (0x060000000000000000000000, 0xFF000000FFFFFFFFFFFFFFFF),
    (0x070000000000000000000000, 0xFF000000FFFFFFFFFFFFFFFF),
    (0x080000000000000000000000, 0xFF000000FFFFFFFFFFFFFFFF),
    (0x090000000000000000000000, 0xFF000000FFFFFFFFFFFFFFFF),
    (0x0A0000000000000000000000, 0xFF000000FFFFFFFFFFFFFFFF),
    (0x0B0000000000000000000000, 0xFF000000FFFFFFFFFFFFFFFF),
    (0x0C0000000000000000000000, 0xFF000000FFFFFFFFFFFFFFFF) ] ++
  [ (0x0D0000000000000000000000, 0xFFFFFFFF00000000FFFFFFFF),
    (0x0E0000000000000000000000, 0xFF00FFFF00000000FFFFFFFF),
    (0x0F0000000000000000000000, 0xFF00FFFF00000000FFFFFFFF),
    (0x100000000000000000000000, 0xFF00FFFFFFFFFFFFFFFFFFFF),
    (0x110000000000000000000000, 0xFFFFFFFFFFFFFFFFFFFFFFFF),
    (0x120000000000000000000000, 0xFFFFFFFF00000000FFFFFFFF),
    (0x130000000000000000000000, 0xFFFFFFFF00000000FFFFFFFF),
    (0x140000000000000000000000, 0xFF00FFFF0000000000000000),
    (0x150000000000000000000000, 0xFFFFFF0000000000FFFFFFFF),
    (0x160000000000000000000000, 0xFFFFFFFF00000000FFFFFFFF),
    (0x170000000000000000000000, 0xFFFFFFFFFFFFFFFFFFFFFFFF) ]

/-- `i` is what R104 and R105 read from the bits of `w`: opcode and every operand, each from its own field. -/
def ReadFrom (w : InstrWord) : Instr → Prop
  | .setRegister reg value =>
    bits w 95 88 = 0x01 ∧ reg = bits w 71 64 ∧ value = signed32 (bits w 63 32)
  | .add a b d => bits w 95 88 = 0x02 ∧ a = bits w 87 80 ∧ b = bits w 79 72 ∧ d = bits w 71 64
  | .sub a b d => bits w 95 88 = 0x03 ∧ a = bits w 87 80 ∧ b = bits w 79 72 ∧ d = bits w 71 64
  | .mul a b d => bits w 95 88 = 0x04 ∧ a = bits w 87 80 ∧ b = bits w 79 72 ∧ d = bits w 71 64
  | .div a b d => bits w 95 88 = 0x05 ∧ a = bits w 87 80 ∧ b = bits w 79 72 ∧ d = bits w 71 64
  | .mod a b d => bits w 95 88 = 0x06 ∧ a = bits w 87 80 ∧ b = bits w 79 72 ∧ d = bits w 71 64
  | .eq a b d => bits w 95 88 = 0x07 ∧ a = bits w 87 80 ∧ b = bits w 79 72 ∧ d = bits w 71 64
  | .neq a b d => bits w 95 88 = 0x08 ∧ a = bits w 87 80 ∧ b = bits w 79 72 ∧ d = bits w 71 64
  | .gt a b d => bits w 95 88 = 0x09 ∧ a = bits w 87 80 ∧ b = bits w 79 72 ∧ d = bits w 71 64
  | .lt a b d => bits w 95 88 = 0x0A ∧ a = bits w 87 80 ∧ b = bits w 79 72 ∧ d = bits w 71 64
  | .gte a b d => bits w 95 88 = 0x0B ∧ a = bits w 87 80 ∧ b = bits w 79 72 ∧ d = bits w 71 64
  | .lte a b d => bits w 95 88 = 0x0C ∧ a = bits w 87 80 ∧ b = bits w 79 72 ∧ d = bits w 71 64
  | .jump offset => bits w 95 88 = 0x0D ∧ offset = bits w 63 32
  | .jumpIfZero reg offset => bits w 95 88 = 0x0E ∧ reg = bits w 87 80 ∧ offset = bits w 63 32
  | .jumpIfNonZero reg offset => bits w 95 88 = 0x0F ∧ reg = bits w 87 80 ∧ offset = bits w 63 32
  | .print reg => bits w 95 88 = 0x10 ∧ reg = bits w 87 80
  | .halt => bits w 95 88 = 0x11
  | .allocateMemory size => bits w 95 88 = 0x12 ∧ size = bits w 63 32
  | .freeMemory address => bits w 95 88 = 0x13 ∧ address = bits w 63 32
  | .storeToMemory address reg offset =>
    bits w 95 88 = 0x14 ∧ address = bits w 63 32 ∧ reg = bits w 87 80 ∧ offset = bits w 31 0
  | .loadFromMemory address regDest =>
    bits w 95 88 = 0x15 ∧ address = bits w 63 32 ∧ regDest = bits w 71 64
  | .call offset => bits w 95 88 = 0x16 ∧ offset = bits w 63 32
  | .ret => bits w 95 88 = 0x17

/-! ### Encodings by format (30_encoding.md R103): the fields in use give the operands, a reserved field that is not zero
makes the word illegal -/

/-- Format ABD. -/
def EncodedABD (op : Byte) (mk : Nat → Nat → Nat → Instr) : Prop :=
  ∀ (ra rb rd : Byte) (ia ib : U32), decode (layout op ra rb rd ia ib) =
    if ia = 0 ∧ ib = 0 then .ok (mk ra.toNat rb.toNat rd.toNat) else .error (.reservedField op)

/-- Format I. -/
def EncodedI (op : Byte) (mk : Nat → Instr) : Prop :=
  ∀ (ra rb rd : Byte) (ia ib : U32), decode (layout op ra rb rd ia ib) =
    if ra = 0 ∧ rb = 0 ∧ rd = 0 ∧ ib = 0 then .ok (mk ia.toNat) else .error (.reservedField op)

/-- Format AI. -/
def EncodedAI (op : Byte) (mk : Nat → Nat → Instr) : Prop :=
  ∀ (ra rb rd : Byte) (ia ib : U32), decode (layout op ra rb rd ia ib) =
    if rb = 0 ∧ rd = 0 ∧ ib = 0 then .ok (mk ra.toNat ia.toNat) else .error (.reservedField op)

/-- Format A. -/
def EncodedA (op : Byte) (mk : Nat → Instr) : Prop :=
  ∀ (ra rb rd : Byte) (ia ib : U32), decode (layout op ra rb rd ia ib) =
    if rb = 0 ∧ rd = 0 ∧ ia = 0 ∧ ib = 0 then .ok (mk ra.toNat) else .error (.reservedField op)

/-- Format N. -/
def EncodedN (op : Byte) (i : Instr) : Prop :=
  ∀ (ra rb rd : Byte) (ia ib : U32), decode (layout op ra rb rd ia ib) =
    if ra = 0 ∧ rb = 0 ∧ rd = 0 ∧ ia = 0 ∧ ib = 0 then .ok i else .error (.reservedField op)

/-- Format DI. -/
def EncodedDI (op : Byte) (mk : Byte → U32 → Instr) : Prop :=
  ∀ (ra rb rd : Byte) (ia ib : U32), decode (layout op ra rb rd ia ib) =
    if ra = 0 ∧ rb = 0 ∧ ib = 0 then .ok (mk rd ia) else .error (.reservedField op)

/-- Format AIJ. -/
def EncodedAIJ (op : Byte) (mk : Nat → Nat → Nat → Instr) : Prop :=
  ∀ (ra rb rd : Byte) (ia ib : U32), decode (layout op ra rb rd ia ib) =
    if rb = 0 ∧ rd = 0 then .ok (mk ra.toNat ia.toNat ib.toNat) else .error (.reservedField op)

/-! ### Next states -/

/-- From `s` to `t`: register `d` holds `v`, every other register, and everything that is neither a register nor Out, is as
before, and Out has one more record. -/
def WritesReg (s t : State) (d : Nat) (v : Word) (e : EventRecord) : Prop :=
  t.reg d = v ∧ (∀ r, r < 8 → r ≠ d → t.reg r = s.reg r) ∧ t = { s with x := t.x, out := s.out ++ [e] }

/-- `i` completes on `s`, writing `v` to `d` with the TRACE record of an ABD instruction. -/
def AluWrites (i : Instr) (op : Byte) (a b d : Nat) (s : State) (v : Word) : Prop :=
  ∃ t, exec i s = .next t ∧ WritesReg s t d v (.trace (s.pc - 1) op (.alu a b d (s32 v)))

/-- The state after a diagnostic: one DIAG record, nothing else (60_exceptions.md R301). -/
def afterDiag (s : State) (d : Diag) : State := { s with out := s.out ++ [.diag (s.pc - 1) d] }

/-- The state after a fault of code number `n` (60_exceptions.md R310). -/
def afterFault (s : State) (c : FaultCode) (n : BitVec 8) : State :=
  { s with
    st := .faulted, faultCause := n, faultPc := s.pc - 1, out := s.out ++ [.fault (s.pc - 1) c] }

/-- `i`, whose register operands in check order are `rs`, reports the first of them that is 8 or more and does nothing
else (40_dispatch.md R136). -/
def ReportsFirstInvalid (i : Instr) (rs : List Nat) (s : State) : Prop :=
  ∀ r, rs.find? (fun q => decide (8 ≤ q)) = some r → exec i s = .next (afterDiag s (.invalidRegister r))

/-- Everything R190's template says of one comparison whose predicate is `P`. -/
def Compares (op : Byte) (mk : Nat → Nat → Nat → Instr) (P : Int → Int → Prop) : Prop :=
  EncodedABD op mk ∧
    ∀ (s : State) (a b d : Nat),
      ReportsFirstInvalid (mk a b d) [a, b, d] s ∧
      (a < 8 → b < 8 → d < 8 →
        (P (s32 (s.reg a)) (s32 (s.reg b)) → AluWrites (mk a b d) op a b d s 1) ∧
        (¬ P (s32 (s.reg a)) (s32 (s.reg b)) → AluWrites (mk a b d) op a b d s 0))

/-- The two fatal cases of Div and Mod: no register is written, FAULT_CAUSE is the fault's code. -/
def DividesFatally (mk : Nat → Nat → Nat → Instr) : Prop :=
  ∀ (s : State) (a b d : Nat), a < 8 → b < 8 → d < 8 →
    (s32 (s.reg b) = 0 → exec (mk a b d) s = .next (afterFault s .divByZero 0x10)) ∧
    (s32 (s.reg a) = -2 ^ 31 → s32 (s.reg b) = -1 →
      exec (mk a b d) s = .next (afterFault s .divOverflow 0x11))

/-- The state after a taken, valid branch to `t`. -/
def afterBranch (s : State) (op : Byte) (t : Nat) : State :=
  { s with pc := BitVec.ofNat 32 t, out := s.out ++ [.trace (s.pc - 1) op (.branch true t)] }

/-- `i` performs `DoJump(offset)` on `s`: the target `pc + offset` in the naturals is taken when below PROG_LEN and
reported otherwise, `pc` unchanged (44_branch.md R210). -/
def PerformsJump (i : Instr) (op : Byte) (offset : Nat) (s : State) : Prop :=
  (s.pc.toNat + offset < s.progLen.toNat → exec i s = .next (afterBranch s op (s.pc.toNat + offset))) ∧
  (s.progLen.toNat ≤ s.pc.toNat + offset →
    exec i s = .next (afterDiag s (.invalidJumpTarget (s.pc.toNat + offset))))

/-- `i` is a branch not taken on `s`. -/
def FallsThrough (i : Instr) (op : Byte) (s : State) : Prop :=
  exec i s = .next { s with out := s.out ++ [.trace (s.pc - 1) op (.branch false s.pc.toNat)] }

/-- The live regions number fewer than MAX_REGIONS. -/
def RoomForRegion (s : State) : Prop := ∀ m, s.config.maxRegions = some m → s.regions.length < m

/-- The register an instruction writes (10_state.md R32). -/
def writtenReg : Instr → Option Nat
  | .setRegister reg _ => some reg
  | .add _ _ d => some d
  | .sub _ _ d => some d
  | .mul _ _ d => some d
  | .div _ _ d => some d
  | .mod _ _ d => some d
  | .eq _ _ d => some d
  | .neq _ _ d => some d
  | .gt _ _ d => some d
  | .lt _ _ d => some d
  | .gte _ _ d => some d
  | .lte _ _ d => some d
  | .jump _ => none
  | .jumpIfZero _ _ => none
  | .jumpIfNonZero _ _ => none
  | .print _ => none
  | .halt => none
  | .allocateMemory _ => none
  | .freeMemory _ => none
  | .storeToMemory _ _ _ => none
  | .loadFromMemory _ regDest => some regDest
  | .call _ => none
  | .ret => none

/-- The arena bytes `<k, o>` an instruction may change when it runs on `s`: the byte stored to, the whole region allocated
at the cursor, the whole region freed (46_memory_ops.md). -/
def MayChangeByte (i : Instr) (s : State) (k o : Nat) : Prop :=
  match i with
  | .storeToMemory address _ offset => k = address ∧ o = offset
  | .allocateMemory _ => k = s.cursor.toNat
  | .freeMemory address => k = address
  | _ => False

/-- The record of one instruction, its index and its kind (40_dispatch.md R139). -/
def RecordOf (i : Instr) (s : State) : EventRecord → Prop
  | .print j v => j = s.pc - 1 ∧ ∃ reg, i = .print reg ∧ v = s32 (s.reg reg)
  | .diag j _ => j = s.pc - 1
  | .fault j _ => j = s.pc - 1
  | .trace j op _ => j = s.pc - 1 ∧ op = opcodeOf i ∧ ∀ reg, i ≠ .print reg

/-- The state once the host's side of the handshake has been served: with the host ready, one waiting record counts as
accepted (10_state.md R65). -/
def served (t : State) : State :=
  if t.eventReady = true ∧ t.delivered < t.out.length then { t with delivered := t.delivered + 1 } else t

end Sys2Proof.Claims

open Sys2Proof Sys2Proof.Machine Sys2Proof.Claims

/-! ## Encoding -/

/-- "Decode(Encode(d)) = d for every decoded instruction d whose register fields are < 256 and whose immediates fit in 32
bits" (30_encoding.md, the spec's own inference in R109). -/
def Obligations.DecodeOfEncodeIsTheInstruction : Prop :=
  ∀ i : Instr, WellFormed i = true → decode (encode i) = .ok i

/-- "Encode(Decode(w)) = w for every legal w" (30_encoding.md, the spec's own inference in R109), and what the decoder gives
has an encoding. -/
def Obligations.EncodeOfDecodeIsTheWord : Prop :=
  ∀ (w : InstrWord) (i : Instr), decode w = .ok i → WellFormed i = true ∧ encode i = w

/-- R106, R104: a word is legal exactly when it matches a row of the opcode table; otherwise its opcode is unassigned or a
reserved field is not zero. -/
def Obligations.LegalWordsAreTheTableRows : Prop :=
  ∀ w : InstrWord, (∃ i, decode w = .ok i) ↔ ∃ row ∈ opcodeRows, w &&& row.2 = row.1

/-- R105, R101, R102: every operand is read from its own bits. -/
def Obligations.DecodedOperandsAreTheWordsFields : Prop :=
  ∀ (w : InstrWord) (i : Instr), decode w = .ok i → ReadFrom w i

/-- Words laid out bit by bit from the encodings of 30_encoding.md R102 to R105 decode to what they stand for. The words
of Gt and StoreToMemory are laid out here with operands of our own; each other legal word stands in the instruction's own
file (41_register.md to 47_call_return.md), the two illegal ones are E1 and E4 of 95_test_vectors.md. -/
def Obligations.SampleWordsDecode : Prop :=
  decode 0x01000003FFFFFFFF00000000 = .ok (.setRegister 3 (-1)) ∧
  decode 0x020001020000000000000000 = .ok (.add 0 1 2) ∧
  decode 0x09FF01FF0000000000000000 = .ok (.gt 255 1 255) ∧
  decode 0x0F0300000000000200000000 = .ok (.jumpIfNonZero 3 2) ∧
  decode 0x100100000000000000000000 = .ok (.print 1) ∧
  decode 0x140700000000000400000001 = .ok (.storeToMemory 4 7 1) ∧
  decode 0x150000010000000000000000 = .ok (.loadFromMemory 0 1) ∧
  decode 0x160000000000000200000000 = .ok (.call 2) ∧
  decode 0x170000000000000000000000 = .ok .ret ∧
  decode 0 = .error (.unassignedOpcode 0) ∧
  decode 0x110000000000000000000001 = .error (.reservedField 0x11)

/-- R81: a word moved as bytes goes most significant byte first, and the decoder reads it back from those bytes. -/
def Obligations.WordsTravelMostSignificantByteFirst : Prop :=
  ∀ (w : InstrWord) (rest : List Byte),
    (wordToBytes w).length = 12 ∧
    (∀ k, k < 12 → (wordToBytes w)[k]?.map BitVec.toNat = some (bits w (95 - 8 * k) (88 - 8 * k))) ∧
    (∀ i, decode w = .ok i → decodeBytes (wordToBytes w ++ rest) = .ok (i, rest)) ∧
    (∀ e, decode w = .error e → decodeBytes (wordToBytes w ++ rest) = .error e)

/-- R110, the spec's own inference: the register-index checks apply to exactly the register-file ports marked, in port order, and
a field of a port or an immediate not marked is zero in the instruction's word. -/
def Obligations.CheckedRegistersAreTheMarkedPorts : Prop :=
  ∀ i : Instr, WellFormed i = true →
    checkedRegs i =
      (if (signalsOf i).readsRA then [bits (encode i) 87 80] else []) ++
      (if (signalsOf i).readsRB then [bits (encode i) 79 72] else []) ++
      (if (signalsOf i).writesRD then [bits (encode i) 71 64] else []) ∧
    writtenReg i = (if (signalsOf i).writesRD then some (bits (encode i) 71 64) else none) ∧
    ((signalsOf i).readsRA = false → bits (encode i) 87 80 = 0) ∧
    ((signalsOf i).readsRB = false → bits (encode i) 79 72 = 0) ∧
    ((signalsOf i).writesRD = false → bits (encode i) 71 64 = 0) ∧
    ((signalsOf i).usesImmA = false → bits (encode i) 63 32 = 0) ∧
    ((signalsOf i).usesImmB = false → bits (encode i) 31 0 = 0)

/-! ## Values -/

/-- R7: `wrap32`, `trunc_8`, `zext_32` as numbers. -/
def Obligations.ValueConversions : Prop :=
  (∀ n : Int, -2 ^ 31 ≤ s32 (wrap32 n) ∧ s32 (wrap32 n) < 2 ^ 31 ∧ (2 ^ 32 : Int) ∣ s32 (wrap32 n) - n) ∧
  (∀ p : Word, s32 p = signed32 p.toNat ∧ wrap32 (s32 p) = p ∧ (trunc8 p).toNat = p.toNat % 2 ^ 8) ∧
  (∀ b : Byte, s32 (zext32 b) = b.toNat)

/-! ## Instructions -/

/-- R160. -/
def Obligations.SetRegisterWritesTheImmediate : Prop :=
  EncodedDI 0x01 (fun rd ia => .setRegister rd.toNat (s32 ia)) ∧
  ∀ (s : State) (reg : Nat) (value : Int),
    ReportsFirstInvalid (.setRegister reg value) [reg] s ∧
    (reg < 8 → ∃ t, exec (.setRegister reg value) s = .next t ∧
      WritesReg s t reg (wrap32 value) (.trace (s.pc - 1) 0x01 (.move reg value)))

/-- R170, R171, R172, R174: Add, Sub and Mul write the exact result modulo 2^32. -/
def Obligations.AddSubMulWrapModulo32Bits : Prop :=
  EncodedABD 0x02 Instr.add ∧ EncodedABD 0x03 Instr.sub ∧ EncodedABD 0x04 Instr.mul ∧
  ∀ (s : State) (a b d : Nat),
    ReportsFirstInvalid (.add a b d) [a, b, d] s ∧
    ReportsFirstInvalid (.sub a b d) [a, b, d] s ∧
    ReportsFirstInvalid (.mul a b d) [a, b, d] s ∧
    (a < 8 → b < 8 → d < 8 →
      AluWrites (.add a b d) 0x02 a b d s (wrap32 (s32 (s.reg a) + s32 (s.reg b))) ∧
      AluWrites (.sub a b d) 0x03 a b d s (wrap32 (s32 (s.reg a) - s32 (s.reg b))) ∧
      AluWrites (.mul a b d) 0x04 a b d s (wrap32 (s32 (s.reg a) * s32 (s.reg b))))

/-- R176, R177: Div writes the quotient rounded toward zero, exactly, or faults in its two fatal cases. -/
def Obligations.DivTruncatesOrFaults : Prop :=
  EncodedABD 0x05 Instr.div ∧ DividesFatally Instr.div ∧
  ∀ (s : State) (a b d : Nat),
    ReportsFirstInvalid (.div a b d) [a, b, d] s ∧
    (a < 8 → b < 8 → d < 8 → s32 (s.reg b) ≠ 0 → ¬ (s32 (s.reg a) = -2 ^ 31 ∧ s32 (s.reg b) = -1) →
      ∃ v : Word, s32 v = Int.tdiv (s32 (s.reg a)) (s32 (s.reg b)) ∧ AluWrites (.div a b d) 0x05 a b d s v)

/-- R178, R179: Mod writes the remainder of the truncating division, exactly, or faults in its two fatal cases. -/
def Obligations.ModTruncatesOrFaults : Prop :=
  EncodedABD 0x06 Instr.mod ∧ DividesFatally Instr.mod ∧
  ∀ (s : State) (a b d : Nat),
    ReportsFirstInvalid (.mod a b d) [a, b, d] s ∧
    (a < 8 → b < 8 → d < 8 → s32 (s.reg b) ≠ 0 → ¬ (s32 (s.reg a) = -2 ^ 31 ∧ s32 (s.reg b) = -1) →
      ∃ v : Word,
        s32 v = s32 (s.reg a) - s32 (s.reg b) * Int.tdiv (s32 (s.reg a)) (s32 (s.reg b)) ∧
        AluWrites (.mod a b d) 0x06 a b d s v)

/-- The last sentence of 42_arithmetic.md section 3: where neither faults, the two results satisfy `a = b × Div + Mod` and
|Mod| < |b| (00_scope.md R9). The spec's own inference. -/
def Obligations.QuotientAndRemainderRecompose : Prop :=
  ∀ (s t u : State) (a b : Nat), a < 8 → b < 8 →
    exec (.div a b a) s = .next t → exec (.mod a b a) s = .next u → t.st ≠ .faulted → u.st ≠ .faulted →
    s32 (s.reg a) = s32 (s.reg b) * s32 (t.reg a) + s32 (u.reg a) ∧
      |s32 (u.reg a)| < |s32 (s.reg b)|

/-- R190 to R196: the six comparisons, signed. -/
def Obligations.ComparisonsWriteOneOrZero : Prop :=
  Compares 0x07 Instr.eq (fun a b => a = b) ∧
  Compares 0x08 Instr.neq (fun a b => a ≠ b) ∧
  Compares 0x09 Instr.gt (fun a b => a > b) ∧
  Compares 0x0A Instr.lt (fun a b => a < b) ∧
  Compares 0x0B Instr.gte (fun a b => a ≥ b) ∧
  Compares 0x0C Instr.lte (fun a b => a ≤ b)

/-- R210, R211: Jump. -/
def Obligations.JumpGoesForwardOrReports : Prop :=
  EncodedI 0x0D Instr.jump ∧
  ∀ (s : State) (offset : Nat), PerformsJump (.jump offset) 0x0D offset s

/-- R212, R214: the conditional branches perform the jump exactly when their condition holds; a branch not taken checks no
target. -/
def Obligations.ConditionalBranches : Prop :=
  EncodedAI 0x0E Instr.jumpIfZero ∧ EncodedAI 0x0F Instr.jumpIfNonZero ∧
  ∀ (s : State) (reg offset : Nat),
    ReportsFirstInvalid (.jumpIfZero reg offset) [reg] s ∧
    ReportsFirstInvalid (.jumpIfNonZero reg offset) [reg] s ∧
    (reg < 8 →
      (s32 (s.reg reg) = 0 →
        PerformsJump (.jumpIfZero reg offset) 0x0E offset s ∧ FallsThrough (.jumpIfNonZero reg offset) 0x0F s) ∧
      (s32 (s.reg reg) ≠ 0 →
        FallsThrough (.jumpIfZero reg offset) 0x0E s ∧ PerformsJump (.jumpIfNonZero reg offset) 0x0F offset s))

/-- R230, R231: Print appends the register's int32 and changes nothing else. -/
def Obligations.PrintEmitsTheValue : Prop :=
  EncodedA 0x10 Instr.print ∧
  ∀ (s : State) (reg : Nat),
    ReportsFirstInvalid (.print reg) [reg] s ∧
    (reg < 8 → exec (.print reg) s = .next { s with out := s.out ++ [.print (s.pc - 1) (s32 (s.reg reg))] })

/-- R232: Halt. -/
def Obligations.HaltEndsTheRun : Prop :=
  EncodedN 0x11 .halt ∧
  ∀ s : State, exec .halt s =
    .next { s with st := .halted, out := s.out ++ [.trace (s.pc - 1) 0x11 .empty] }

/-- R240: AllocateMemory makes a region of `size` zero bytes at the cursor and advances the cursor, or raises one of its two
capacity faults, ARENA_EXHAUSTED before REGION_TABLE_FULL. -/
def Obligations.AllocateMemoryMakesAZeroRegion : Prop :=
  EncodedI 0x12 Instr.allocateMemory ∧
  ∀ (s : State) (size : Nat),
    (s.config.arenaLimit.toNat < s.cursor.toNat + size →
      exec (.allocateMemory size) s = .next (afterFault s .arenaExhausted 0x30)) ∧
    (s.cursor.toNat + size ≤ s.config.arenaLimit.toNat → Arena.lookup s.regions s.cursor.toNat = none →
      s.config.maxRegions = some s.regions.length → exec (.allocateMemory size) s = .next (afterFault s .regionTableFull 0x31)) ∧
    (s.cursor.toNat + size ≤ s.config.arenaLimit.toNat →
      (Arena.lookup s.regions s.cursor.toNat ≠ none ∨ RoomForRegion s) →
      ∃ t, exec (.allocateMemory size) s = .next t ∧
        (∃ r, Arena.lookup t.regions s.cursor.toNat = some r ∧ r.size = size) ∧
        (∀ o, o < size → Arena.byteAt t.regions s.cursor.toNat o = some 0) ∧
        (∀ k, k ≠ s.cursor.toNat → Arena.lookup t.regions k = Arena.lookup s.regions k) ∧
        t.cursor.toNat = s.cursor.toNat + size ∧
        t = { s with
          regions := t.regions, cursor := t.cursor
          out := s.out ++ [.trace (s.pc - 1) 0x12 (.alloc size s.cursor.toNat)] })

/-- R241: only a size-0 region can stand at the cursor; the new region replaces it and the count does not change. -/
def Obligations.AllocationReplacesASizeZeroRegion : Prop :=
  ∀ (s : State) (size : Nat) (r : Region), s.ArenaInv → Arena.lookup s.regions s.cursor.toNat = some r →
    r.size = 0 ∧
    (s.cursor.toNat + size ≤ s.config.arenaLimit.toNat →
      ∃ t, exec (.allocateMemory size) s = .next t ∧ t.regions.length = s.regions.length ∧
        ∃ r', Arena.lookup t.regions s.cursor.toNat = some r' ∧ r'.size = size)

/-- R245: FreeMemory removes exactly the region whose key is the address, the cursor unchanged. -/
def Obligations.FreeMemoryRemovesTheRegion : Prop :=
  EncodedI 0x13 Instr.freeMemory ∧
  ∀ (s : State) (address : Nat),
    (Arena.lookup s.regions address = none →
      exec (.freeMemory address) s = .next (afterDiag s (.regionNotFound address))) ∧
    (Arena.lookup s.regions address ≠ none →
      ∃ t, exec (.freeMemory address) s = .next t ∧
        Arena.lookup t.regions address = none ∧
        (∀ k, k ≠ address → Arena.lookup t.regions k = Arena.lookup s.regions k) ∧
        t = { s with
          regions := t.regions, out := s.out ++ [.trace (s.pc - 1) 0x13 (.free address)] })

/-- R250, R251: StoreToMemory writes one byte, the register's pattern modulo 256, and no other byte of any region; its checks
in R330's order. -/
def Obligations.StoreToMemoryWritesOneByte : Prop :=
  EncodedAIJ 0x14 (fun ra ia ib => .storeToMemory ia ra ib) ∧
  ∀ (s : State) (address reg offset : Nat),
    ReportsFirstInvalid (.storeToMemory address reg offset) [reg] s ∧
    (reg < 8 → Arena.lookup s.regions address = none →
      exec (.storeToMemory address reg offset) s = .next (afterDiag s (.regionNotFound address))) ∧
    (∀ r, reg < 8 → Arena.lookup s.regions address = some r → r.size ≤ offset →
      exec (.storeToMemory address reg offset) s = .next (afterDiag s (.offsetOutOfBounds address offset))) ∧
    (∀ r, reg < 8 → Arena.lookup s.regions address = some r → offset < r.size →
      ∃ (t : State) (b : Byte), exec (.storeToMemory address reg offset) s = .next t ∧
        b.toNat = (s.reg reg).toNat % 256 ∧
        Arena.byteAt t.regions address offset = some b ∧
        (∀ k o, ¬ (k = address ∧ o = offset) → Arena.byteAt t.regions k o = Arena.byteAt s.regions k o) ∧
        (∀ k, (Arena.lookup t.regions k).map Region.size = (Arena.lookup s.regions k).map Region.size) ∧
        t = { s with
          regions := t.regions, out := s.out ++ [.trace (s.pc - 1) 0x14 (.store address offset b)] })

/-- R260, R261: LoadFromMemory reads byte 0 of the region, zero-extended; a size-0 region is a bounds failure. -/
def Obligations.LoadFromMemoryReadsByteZero : Prop :=
  EncodedDI 0x15 (fun rd ia => .loadFromMemory ia.toNat rd.toNat) ∧
  ∀ (s : State) (address regDest : Nat),
    ReportsFirstInvalid (.loadFromMemory address regDest) [regDest] s ∧
    (regDest < 8 → Arena.lookup s.regions address = none →
      exec (.loadFromMemory address regDest) s = .next (afterDiag s (.regionNotFound address))) ∧
    (∀ r, regDest < 8 → Arena.lookup s.regions address = some r → r.size = 0 →
      exec (.loadFromMemory address regDest) s = .next (afterDiag s (.offsetOutOfBounds address 0))) ∧
    (∀ b : Byte, regDest < 8 → Arena.byteAt s.regions address 0 = some b →
      ∃ (t : State) (v : Word), exec (.loadFromMemory address regDest) s = .next t ∧ v.toNat = b.toNat ∧
        WritesReg s t regDest v (.trace (s.pc - 1) 0x15 (.load address regDest b.toNat)))

/-- "a program that stores to offset 0 and then loads": the store and load round trip of 46_memory_ops.md (the spec's own
inference in R262), on any state in between that keeps the arena. -/
def Obligations.StoreThenLoadGivesTheByte : Prop :=
  ∀ (s u : State) (address reg reg2 : Nat) (r : Region), reg < 8 → reg2 < 8 →
    Arena.lookup s.regions address = some r → 1 ≤ r.size →
    ∃ t, exec (.storeToMemory address reg 0) s = .next t ∧
      (u.regions = t.regions →
        ∃ v, exec (.loadFromMemory address reg2) u = .next v ∧
          (v.reg reg2).toNat = (s.reg reg).toNat % 256)

/-- R270, R271: Call pushes `i + 1` and goes forward with no bound check, saturating at 2^32 - 1; a full stack is a fault. -/
def Obligations.CallPushesAndGoesForward : Prop :=
  EncodedI 0x16 Instr.call ∧
  ∀ (s : State) (offset : Nat),
    (s.cs.length = s.config.callDepth → exec (.call offset) s = .next (afterFault s .callStackOverflow 0x32)) ∧
    (s.cs.length < s.config.callDepth →
      ∃ t, exec (.call offset) s = .next t ∧
        (s.pc.toNat + offset < 2 ^ 32 → t.pc.toNat = s.pc.toNat + offset) ∧
        (2 ^ 32 ≤ s.pc.toNat + offset → t.pc.toNat = 2 ^ 32 - 1 ∧ s.progLen.toNat ≤ t.pc.toNat) ∧
        t = { s with
          cs := s.cs ++ [s.pc], pc := t.pc
          out := s.out ++ [.trace (s.pc - 1) 0x16 (.call s.pc (s.pc.toNat + offset))] })

/-- R272, R273: Return resumes at the newest entry and drops it; on an empty stack nothing changes and nothing is
emitted. -/
def Obligations.ReturnResumesAtTheNewestEntry : Prop :=
  EncodedN 0x17 .ret ∧
  ∀ s : State,
    (s.cs = [] → exec .ret s = .next s) ∧
    (∀ (older : List U32) (v : U32), s.cs = older ++ [v] →
      exec .ret s = .next { s with
        cs := older, pc := v, out := s.out ++ [.trace (s.pc - 1) 0x17 (.ret v)] })

/-- 47_call_return.md, the spec's own inference in R274: a Return on the stack a Call left resumes at the instruction after the
Call, with the registers of the moment of the Return. -/
def Obligations.CallThenReturnResumesAfterTheCall : Prop :=
  ∀ (s u : State) (offset : Nat), s.cs.length < s.config.callDepth →
    ∃ t, exec (.call offset) s = .next t ∧
      (u.cs = t.cs → ∃ v, exec .ret u = .next v ∧ v.pc = s.pc ∧ v.cs = s.cs ∧ v.x = u.x)

/-! ## All instructions -/

/-- R31, R136: the first register operand that is 8 or more, in check order, is reported, and nothing else happens, whatever
else is wrong. -/
def Obligations.InvalidRegisterIsReportedFirst : Prop :=
  ∀ (i : Instr) (s : State), ReportsFirstInvalid i (checkedRegs i) s

/-- Every execution answers a next state: no instruction stops the model on any state or operands. -/
def Obligations.EveryInstructionAnswersANextState : Prop :=
  ∀ (i : Instr) (s : State), ∃ t, exec i s = .next t

/-- R32: no instruction writes any register but the one its row names. -/
def Obligations.OnlyTheDestinationRegisterChanges : Prop :=
  ∀ (i : Instr) (s t : State), exec i s = .next t →
    ∀ r, r < 8 → writtenReg i ≠ some r → t.reg r = s.reg r

/-- R72, R76, R84: every arena byte outside what the instruction stores to, allocates or frees reads as before. -/
def Obligations.OnlyTheAddressedBytesChange : Prop :=
  ∀ (i : Instr) (s t : State), exec i s = .next t →
    ∀ k o, ¬ MayChangeByte i s k o → Arena.byteAt t.regions k o = Arena.byteAt s.regions k o

/-- R39, R45, R71: the cursor moves only in AllocateMemory and never back, only Call pushes and only Return pops, and no
instruction writes the program (nor the parameters and the input lines). -/
def Obligations.CursorStackAndProgramFrame : Prop :=
  ∀ (i : Instr) (s t : State), exec i s = .next t →
    (t.cursor ≠ s.cursor → ∃ size, i = .allocateMemory size) ∧
    s.cursor.toNat ≤ t.cursor.toNat ∧
    (t.cs ≠ s.cs →
      (∃ offset, i = .call offset ∧ t.cs = s.cs ++ [s.pc]) ∨ (i = .ret ∧ ∃ v, s.cs = t.cs ++ [v])) ∧
    t.imem = s.imem ∧ t.progLen = s.progLen ∧ t.config = s.config ∧
    t.resetLine = s.resetLine ∧ t.runEnable = s.runEnable ∧ t.eventReady = s.eventReady ∧
    t.delivered = s.delivered

/-- 10_state.md R34 and 47_call_return.md R276, the spec's own inferences: after the fetch increment only a valid taken branch,
a Call and a popping Return write `pc`, and only a Return moves it back. -/
def Obligations.ProgramCounterWriters : Prop :=
  ∀ (i : Instr) (s t : State), exec i s = .next t →
    (t.pc ≠ s.pc →
      (∃ offset, i = .jump offset) ∨ (∃ reg offset, i = .jumpIfZero reg offset) ∨
      (∃ reg offset, i = .jumpIfNonZero reg offset) ∨ (∃ offset, i = .call offset) ∨
      (i = .ret ∧ s.cs ≠ [])) ∧
    (i ≠ .ret → s.pc.toNat ≤ t.pc.toNat)

/-- R138, R300, R301: an instruction that reports a diagnostic changes nothing but Out. -/
def Obligations.DiagnosticSkipsTheWholeEffect : Prop :=
  ∀ (i : Instr) (s t : State) (j : U32) (d : Diag), exec i s = .next t → t.out = s.out ++ [.diag j d] →
    t = afterDiag s d

/-- R55, R310: FAULT_CAUSE, FAULT_PC and ST = FAULTED are written only together with a FAULT record, and then nothing else
changes. -/
def Obligations.FaultEntryIsPrecise : Prop :=
  ∀ (i : Instr) (s t : State), exec i s = .next t →
    ((∃ c, t = afterFault s c c.code) ∨
      (t.faultCause = s.faultCause ∧ t.faultPc = s.faultPc ∧ (t.st = s.st ∨ (t.st = .halted ∧ i = .halt)) ∧
        ∀ j c, t.out ≠ s.out ++ [.fault j c]))

/-- R139: one record per instruction, of the kind and index the table gives; none for a stray Return only. -/
def Obligations.OneRecordPerInstruction : Prop :=
  ∀ (i : Instr) (s t : State), exec i s = .next t →
    (i = .ret ∧ s.cs = [] ∧ t = s) ∨
    (¬ (i = .ret ∧ s.cs = []) ∧ ∃ e, t.out = s.out ++ [e] ∧ RecordOf i s e)

/-- R63, R311: the numbers of the run states and of the faults. -/
def Obligations.FaultAndStateCodes : Prop :=
  FaultCode.code .divByZero = 0x10 ∧ FaultCode.code .divOverflow = 0x11 ∧
  FaultCode.code .illegalInstruction = 0x20 ∧ FaultCode.code .arenaExhausted = 0x30 ∧
  FaultCode.code .regionTableFull = 0x31 ∧ FaultCode.code .callStackOverflow = 0x32 ∧
  RunState.code .running = 0 ∧ RunState.code .halted = 1 ∧ RunState.code .faulted = 2

/-! ## The step -/

/-- R131, R133: a step whose word decodes to `i` runs exactly `i` on the state with `pc` advanced by one; `served` is the
event port's part (R65). A run has its program loaded (R345; without it see `LoadedProgramIsNeverRefused`). -/
def Obligations.StepRunsTheDecodedInstruction : Prop :=
  ∀ (s : State) (w : InstrWord) (i : Instr), s.canStart = true → s.ProgramLoaded → s.pc.toNat < s.progLen.toNat →
    s.imemRead s.pc = some w → decode w = .ok i →
    ∃ t, exec i { s with pc := s.pc + 1 } = .next t ∧ step s = .next (served t)

/-- R132: a word of a loaded program that decodes to ILLEGAL raises ILLEGAL_INSTRUCTION with FAULT_PC its index; nothing
else changes. -/
def Obligations.IllegalWordFaults : Prop :=
  ∀ (s : State) (w : InstrWord) (e : DecodeError), s.canStart = true → s.ProgramLoaded → s.pc.toNat < s.progLen.toNat →
    s.imemRead s.pc = some w → decode w = .error e →
    step s = .next (served { s with
      pc := s.pc + 1, st := .faulted, faultCause := 0x20, faultPc := s.pc
      out := s.out ++ [.fault s.pc .illegalInstruction] })

/-- R130: a step can start only when ST = RUNNING, `run_enable` is asserted, no step is incomplete and `reset` is deasserted; past
the end of the program it only sets ST to HALTED. The program is a loaded one: R345 gives no other launch a meaning. -/
def Obligations.WhenAStepStarts : Prop :=
  (∀ s : State, s.canStart = true ↔
    s.st = .running ∧ s.runEnable = true ∧ s.out.length ≤ s.delivered ∧ s.resetLine = false) ∧
  (∀ s : State, s.canStart = true → s.ProgramLoaded → s.progLen.toNat ≤ s.pc.toNat → step s = .next { s with st := .halted })

/-- 10_state.md section 9 (R60, R62, R65) with the model's reading of "held" (log 6) and of the handshake (log 7): `reset` holds the
reset values; while a record waits no later step starts, and it completes when the host accepts; without `run_enable` the state
is held; where no step can start nothing else happens. -/
def Obligations.PauseAndBackPressureHoldTheState : Prop :=
  (∀ s : State, s.resetLine = true → step s = .next s.applyReset) ∧
  (∀ s : State, s.resetLine = false →
    (s.delivered < s.out.length → s.eventReady = false → step s = .next s) ∧
    (s.delivered < s.out.length → s.eventReady = true → step s = .next { s with delivered := s.delivered + 1 }) ∧
    (s.out.length ≤ s.delivered → s.st = .running → s.runEnable = false → step s = .next s)) ∧
  (∀ s t : State, s.canStart = false → step s = .next t →
    t = s ∨ t = { s with delivered := s.delivered + 1 } ∨ (s.resetLine = true ∧ t = s.applyReset))

/-- R35, R312, R343: in HALTED and FAULTED the core takes no step, and only asserting `reset` leaves them. -/
def Obligations.OnlyResetLeavesATerminalState : Prop :=
  (∀ s t : State, s.st ≠ .running → s.resetLine = false → step s = .next t → t.st = s.st ∧ t.core = s.core) ∧
  (∀ s : State, s.st ≠ .running → s.resetLine = false → s.out.length ≤ s.delivered → ∀ t, step s ≠ .next t) ∧
  (∀ (s t : State) (m : HostMove), s.hostMove m = some t → m ≠ .assertReset → t.st = s.st)

/-- R345, read as log 5 says: a launch with an unloaded word below PROG_LEN has no meaning. The host cannot release `reset`
on one; a step of one is refused wherever its `pc` is, naming the first such index; nothing else is refused, so a step of a
fully loaded program never; and no step and no host move comes to a run of a program with a word missing. -/
def Obligations.LoadedProgramIsNeverRefused : Prop :=
  (∀ s : State, s.hostMove .releaseReset = none ↔ s.resetLine = true ∧ ¬ s.ProgramLoaded) ∧
  (∀ s : State, s.canStart = true → ¬ s.ProgramLoaded → ∃ j, step s = .refused (.unloadedWord j)) ∧
  (∀ (s : State) (r : Refusal), step s = .refused r → s.canStart = true ∧
    ∃ j : U32, r = .unloadedWord j ∧ j.toNat < s.progLen.toNat ∧ s.imemRead j = none ∧
      ∀ q : U32, q.toNat < j.toNat → s.imemRead q ≠ none) ∧
  (∀ (s : State) (r : Refusal), s.ProgramLoaded → step s ≠ .refused r) ∧
  (∀ s t : State, s.LaunchInv → step s = .next t → t.LaunchInv) ∧
  (∀ (s t : State) (m : HostMove), s.LaunchInv → s.hostMove m = some t → t.LaunchInv) ∧
  State.reset.LaunchInv

/-- R52: a transition outside reset appends at most one record, at the end. -/
def Obligations.AtMostOneRecordPerStep : Prop :=
  ∀ s t : State, s.resetLine = false → step s = .next t →
    t.out = s.out ∨ ∃ e, t.out = s.out ++ [e]

/-! ## Invariants -/

/-- `State.reset` and every state under reset satisfy the invariants. -/
def Obligations.ResetMeetsTheInvariants : Prop :=
  State.reset.Inv ∧ ∀ s : State, s.ProgramInv → s.applyReset.Inv

/-- R340: the reset values, whenever `reset` is asserted, the program and PROG_LEN not changed; and at power-up, PROG_LEN = 0
(10_state.md R63). -/
def Obligations.ResetValues : Prop :=
  (∀ s : State, ∃ t, s.hostMove .assertReset = some t ∧
    (∀ r, r < 8 → t.reg r = 0) ∧ t.pc = 0 ∧ t.st = .running ∧ t.regions = [] ∧ t.cursor = 0 ∧ t.cs = [] ∧
    t.out = [] ∧ t.faultCause = 0 ∧ t.faultPc = 0 ∧ t.imem = s.imem ∧ t.progLen = s.progLen) ∧
  ((∀ r, r < 8 → State.reset.reg r = 0) ∧ State.reset.pc = 0 ∧ State.reset.st = .running ∧
    State.reset.regions = [] ∧ State.reset.cursor = 0 ∧ State.reset.cs = [] ∧ State.reset.out = [] ∧
    State.reset.faultCause = 0 ∧ State.reset.faultPc = 0 ∧ State.reset.progLen = 0)

/-- 70_reset_and_hazards.md section 5, the spec's own inference in R360: the call stack strictly rises, lies in [1, PROG_LEN]
and never above `pc`. -/
def Obligations.StepKeepsTheControlInvariant : Prop :=
  ∀ s t : State, s.ControlInv → step s = .next t → t.ControlInv

/-- 10_state.md section 5 (the spec's own inference in R40, and R41): the arena stays canonical, its spans disjoint and below the
cursor, within its capacities. The canonical form is the model's (log 19). -/
def Obligations.StepKeepsTheArenaInvariant : Prop :=
  ∀ s t : State, s.ArenaInv → step s = .next t → t.ArenaInv

/-- The fault record says what happened exactly when ST = FAULTED (10_state.md section 8, 60_exceptions.md section 2). -/
def Obligations.StepKeepsTheFaultRecordInvariant : Prop :=
  ∀ s t : State, s.FaultInv → step s = .next t → t.FaultInv

/-- The program and the event port's count stay as the block allows: the program is never written and at most one record
waits (20_memory.md section 1, 10_state.md section 9). -/
def Obligations.StepKeepsProgramAndPort : Prop :=
  ∀ s t : State, step s = .next t →
    t.imem = s.imem ∧ t.progLen = s.progLen ∧ t.config = s.config ∧ (s.OutInv → t.OutInv)

/-- 70_reset_and_hazards.md section 5, the spec's own inference in R361: the depth never exceeds PROG_LEN, so with
CALL_DEPTH ≥ PROG_LEN no step raises CALL_STACK_OVERFLOW. -/
def Obligations.CallStackCannotOverflow : Prop :=
  ∀ s : State, s.ControlInv →
    s.cs.length ≤ s.progLen.toNat ∧
    (s.progLen.toNat ≤ s.config.callDepth → ∀ t, step s = .next t → t.faultCause = 0x32 → s.faultCause = 0x32)

/-- 20_memory.md section 7, the spec's own inference in R92: a freed region of size ≥ 1 is gone, and an absent address below the
cursor stays absent in every later state. -/
def Obligations.FreedAddressIsNeverReused : Prop :=
  (∀ (s : State) (k : Nat) (r : Region), s.ArenaInv → Arena.lookup s.regions k = some r → 1 ≤ r.size →
    ∃ t, exec (.freeMemory k) s = .next t ∧ k < t.cursor.toNat ∧ Arena.lookup t.regions k = none) ∧
  (∀ (s t : State) (k : Nat), s.resetLine = false → k < s.cursor.toNat → Arena.lookup s.regions k = none →
    step s = .next t → k < t.cursor.toNat ∧ Arena.lookup t.regions k = none)

/-! ## Whole runs -/

/-- 70_reset_and_hazards.md section 5, the spec's own inference in R362: from the start of a fully loaded program, whatever the
registers and the arena hold, a run with the host going on is in HALTED or FAULTED after at most PROG_LEN × 2^PROG_LEN + 1
steps. -/
def Obligations.EveryRunEnds : Prop :=
  ∀ s : State, s.canStart = true → s.eventReady = true → s.pc = 0 → s.cs = [] → s.ProgramLoaded →
    ∃ (k : Nat) (t : State), k ≤ s.progLen.toNat * 2 ^ s.progLen.toNat + 1 ∧
      Host.Core.run Sys2Proof.core k s = .next t ∧ t.st ≠ .running

/-- 10_state.md section 9 and 40_dispatch.md R141 (the spec's own inferences): `run_enable` pauses and the host's handshake delays
change no step. Seen without the host's side, every transition of the delayed run is no transition or exactly the transition of
the undelayed run, and it stops where that one stops. -/
def Obligations.PausesAndDelaysChangeNothing : Prop :=
  ∀ s : State, s.resetLine = false → s.OutInv →
    (∀ t, step s = .next t → t.core = s.core ∨ step s.core = .next t.core) ∧
    (∀ r, step s = .fault r → step s.core = .fault r) ∧
    (∀ r, step s = .refused r → step s.core = .refused r)

/-! ## The host's side -/

/-- R61: outside reset no host move writes the program and a load is ignored; under reset a load writes exactly the word or
PROG_LEN (within IMEM_DEPTH, log 12). -/
def Obligations.ProgramLoadsOnlyUnderReset : Prop :=
  ∀ (s : State) (j : Nat) (w : InstrWord) (n : U32),
    (s.resetLine = false →
      s.hostMove (.loadWord j w) = some s ∧ s.hostMove (.loadLength n) = some s ∧
      ∀ m t, s.hostMove m = some t → t.imem = s.imem ∧ t.progLen = s.progLen) ∧
    (s.resetLine = true →
      (j < s.config.imemDepth.toNat → ∃ t, s.hostMove (.loadWord j w) = some t ∧
        Assoc.get? t.imem j = some w ∧ (∀ q, q ≠ j → Assoc.get? t.imem q = Assoc.get? s.imem q) ∧
        t = { s with imem := t.imem }) ∧
      (n.toNat ≤ s.config.imemDepth.toNat → s.hostMove (.loadLength n) = some { s with progLen := n }))

/-- R66: no host move but asserting `reset` changes `pc`, registers, arena, cursor, call stack or fault record: it can change the
program, PROG_LEN and the input lines only. -/
def Obligations.HostCannotWriteTheMachine : Prop :=
  ∀ (s t : State) (m : HostMove), s.hostMove m = some t → m ≠ .assertReset →
    t.pc = s.pc ∧ t.x = s.x ∧ t.regions = s.regions ∧ t.cursor = s.cursor ∧ t.cs = s.cs ∧
    t.faultCause = s.faultCause ∧ t.faultPc = s.faultPc ∧
    t = { s with
      imem := t.imem, progLen := t.progLen
      resetLine := t.resetLine, runEnable := t.runEnable, eventReady := t.eventReady }

/-- R63: the status map, word by word; an unassigned number reads 0. -/
def Obligations.StatusMapWords : Prop :=
  ∀ s : State,
    (s.st = .running → s.statusWord 0x00 = 0) ∧ (s.st = .halted → s.statusWord 0x00 = 1) ∧
    (s.st = .faulted → s.statusWord 0x00 = 2) ∧
    s.statusWord 0x01 = s.pc ∧ (s.statusWord 0x02).toNat = s.faultCause.toNat ∧ s.statusWord 0x03 = s.faultPc ∧
    s.statusWord 0x04 = s.cursor ∧ s.statusWord 0x05 = BitVec.ofNat 32 s.cs.length ∧
    s.statusWord 0x06 = s.progLen ∧ s.statusWord 0x07 = BitVec.ofNat 32 s.regions.length ∧
    (∀ n, n < 8 → s.statusWord (0x08 + n) = s.reg n) ∧
    (∀ n v, n < s.config.callDepth → s.cs[n]? = some v → s.statusWord (0x10 + n) = v) ∧
    (∀ n, n < s.config.callDepth → s.cs.length ≤ n → s.statusWord (0x10 + n) = 0) ∧
    (∀ n, s.config.callDepth ≤ n → s.statusWord (0x10 + n) = 0)

/-- R64: the arena-read port, when the host may read: the listing is any order of the live `(address, size)` pairs; a byte of a
live region below its size is given, anything else is absent. -/
def Obligations.ArenaReadPort : Prop :=
  ∀ s : State, s.readable = true →
    (∀ l, s.isRegionListing l = true ↔ l.Perm (s.regions.map fun e => (e.1, e.2.size))) ∧
    (∀ k o, Arena.lookup s.regions k = none → s.readArenaByte k o = some none) ∧
    (∀ k o r, Arena.lookup s.regions k = some r → r.size ≤ o → s.readArenaByte k o = some none) ∧
    (∀ k o r, Arena.lookup s.regions k = some r → o < r.size →
      s.readArenaByte k o = some (some (Memory.read r.cells o)))

/-- R344 with R340: the boot order, from any state, leaves the reset values, exactly the program loaded, and a block whose first
step can start. -/
def Obligations.BootLoadsTheProgram : Prop :=
  ∀ (s : State) (program : List InstrWord), program.length ≤ s.config.imemDepth.toNat →
    ∃ t, s.hostMoves (bootMoves program) = some t ∧
      t.canStart = true ∧ t.eventReady = true ∧ t.pc = 0 ∧ t.cs = [] ∧ t.regions = [] ∧ t.cursor = 0 ∧
      t.out = [] ∧ t.faultCause = 0 ∧ t.faultPc = 0 ∧ (∀ r, r < 8 → t.reg r = 0) ∧
      t.progLen.toNat = program.length ∧
      (∀ j, j < program.length → Assoc.get? t.imem j = program[j]?) ∧
      t.ProgramLoaded ∧ t.config = s.config

/-- R65: what the host has accepted is always the first records of Out, and a transition adds at most the next one. -/
def Obligations.EventPortDeliversInOrder : Prop :=
  ∀ s t : State, s.resetLine = false → s.OutInv → step s = .next t →
    (s.out.take s.delivered <+: t.out.take t.delivered) ∧
    (t.out.take t.delivered).length ≤ (s.out.take s.delivered).length + 1 ∧
    (∀ e, s.presentedRecord = some e → s.eventReady = true → t.out.take t.delivered = s.out.take s.delivered ++ [e]) ∧
    (s.recordWaiting = true → s.eventReady = false → t = s)
end

