-- ==== Sys2Proof/Laws/Assoc.lean ====
section
/-! SUPPORT. Finite maps: read after write, the rising order is kept, and the least absent key. -/

namespace Sys2Proof.Machine

variable {α : Type}

theorem Assoc.get?_put_same (l : List (Nat × α)) (k : Nat) (v : α) : Assoc.get? (Assoc.put l k v) k = some v := by
  induction l with
  | nil => simp [Assoc.put, Assoc.get?]
  | cons e l ih =>
    obtain ⟨q, w⟩ := e
    unfold Assoc.put
    split
    · simp [Assoc.get?]
    · split
      · simp [Assoc.get?]
      · simp [Assoc.get?, ih, show ¬ q = k by omega]

theorem Assoc.get?_put_other (l : List (Nat × α)) {k q : Nat} (v : α) (h : q ≠ k) :
    Assoc.get? (Assoc.put l k v) q = Assoc.get? l q := by
  induction l with
  | nil => simp [Assoc.put, Assoc.get?, h.symm]
  | cons e l ih =>
    obtain ⟨p, w⟩ := e
    unfold Assoc.put
    split
    · simp [Assoc.get?, h.symm]
    · split
      · rename_i h1
        subst h1
        simp [Assoc.get?, h.symm]
      · simp [Assoc.get?, ih]

theorem Assoc.get?_erase_same (l : List (Nat × α)) (k : Nat) : Assoc.get? (Assoc.erase l k) k = none := by
  induction l with
  | nil => rfl
  | cons e l ih =>
    unfold Assoc.erase
    split
    · exact ih
    · simp [Assoc.get?, *]

theorem Assoc.get?_erase_other (l : List (Nat × α)) {k q : Nat} (h : q ≠ k) :
    Assoc.get? (Assoc.erase l k) q = Assoc.get? l q := by
  induction l with
  | nil => rfl
  | cons e l ih =>
    unfold Assoc.erase
    split
    · rename_i h1
      simp [Assoc.get?, ih, h1, h.symm]
    · simp [Assoc.get?, ih]

theorem Assoc.mem_put {l : List (Nat × α)} {k : Nat} {v : α} {e : Nat × α} (h : e ∈ Assoc.put l k v) :
    e = (k, v) ∨ e ∈ l := by
  induction l with
  | nil => simpa [Assoc.put] using h
  | cons c l ih =>
    unfold Assoc.put at h
    split at h
    · simpa using h
    · split at h
      · rcases List.mem_cons.mp h with h | h
        · exact .inl h
        · exact .inr (List.mem_cons_of_mem _ h)
      · rcases List.mem_cons.mp h with h | h
        · exact .inr (h ▸ List.mem_cons_self)
        · exact (ih h).imp id (List.mem_cons_of_mem _)

/-- What `put` lists is the new entry or an old entry at another key. -/
theorem Assoc.mem_put_of_rising {l : List (Nat × α)} (hl : Assoc.Rising l) {k : Nat} {v : α} {e : Nat × α}
    (h : e ∈ Assoc.put l k v) : e = (k, v) ∨ (e ∈ l ∧ e.1 ≠ k) := by
  induction l with
  | nil => simpa [Assoc.put] using h
  | cons c l ih =>
    have hc := List.pairwise_cons.mp hl
    unfold Assoc.put at h
    split at h
    · rename_i h1
      rcases List.mem_cons.mp h with h | h
      · exact .inl h
      · rcases List.mem_cons.mp h with h' | h'
        · exact .inr ⟨h, by subst h'; simp; omega⟩
        · have := hc.1 e h'
          exact .inr ⟨h, by omega⟩
    · split at h
      · rename_i h1 h2
        rcases List.mem_cons.mp h with h | h
        · exact .inl h
        · have := hc.1 e h
          exact .inr ⟨List.mem_cons_of_mem _ h, by omega⟩
      · rename_i h1 h2
        rcases List.mem_cons.mp h with h | h
        · exact .inr ⟨h ▸ List.mem_cons_self, by subst h; simp; omega⟩
        · exact (ih hc.2 h).imp id fun ⟨a, b⟩ => ⟨List.mem_cons_of_mem _ a, b⟩

theorem Assoc.mem_erase {l : List (Nat × α)} {k : Nat} {e : Nat × α} (h : e ∈ Assoc.erase l k) : e ∈ l ∧ e.1 ≠ k := by
  induction l with
  | nil => simp [Assoc.erase] at h
  | cons c l ih =>
    unfold Assoc.erase at h
    split at h
    · exact ⟨List.mem_cons_of_mem _ (ih h).1, (ih h).2⟩
    · rename_i h1
      rcases List.mem_cons.mp h with h | h
      · exact ⟨h ▸ List.mem_cons_self, by subst h; exact h1⟩
      · exact ⟨List.mem_cons_of_mem _ (ih h).1, (ih h).2⟩

theorem Assoc.erase_sublist (l : List (Nat × α)) (k : Nat) : List.Sublist (Assoc.erase l k) l := by
  induction l with
  | nil => exact .slnil
  | cons c l ih =>
    unfold Assoc.erase
    split
    · exact ih.cons _
    · exact ih.cons_cons _

theorem Assoc.rising_put {l : List (Nat × α)} (hl : Assoc.Rising l) (k : Nat) (v : α) : Assoc.Rising (Assoc.put l k v) := by
  induction l with
  | nil => simp [Assoc.put, Assoc.Rising]
  | cons c l ih =>
    obtain ⟨q, w⟩ := c
    have hc := List.pairwise_cons.mp hl
    unfold Assoc.put
    split
    · rename_i h1
      refine List.pairwise_cons.mpr ⟨fun e he => ?_, hl⟩
      rcases List.mem_cons.mp he with he | he
      · subst he; exact h1
      · exact Nat.lt_trans h1 (hc.1 e he)
    · split
      · rename_i h1 h2
        subst h2
        exact List.pairwise_cons.mpr ⟨hc.1, hc.2⟩
      · rename_i h1 h2
        refine List.pairwise_cons.mpr ⟨fun e he => ?_, ih hc.2⟩
        rcases Assoc.mem_put he with he | he
        · subst he; simp; omega
        · exact hc.1 e he

theorem Assoc.rising_erase {l : List (Nat × α)} (hl : Assoc.Rising l) (k : Nat) : Assoc.Rising (Assoc.erase l k) :=
  hl.sublist (Assoc.erase_sublist l k)

/-- A key that is read is listed. -/
theorem Assoc.mem_of_get? {l : List (Nat × α)} {k : Nat} {v : α} (h : Assoc.get? l k = some v) : (k, v) ∈ l := by
  induction l with
  | nil => simp [Assoc.get?] at h
  | cons c l ih =>
    unfold Assoc.get? at h
    split at h
    · rename_i h1
      simp at h
      subst h1; subst h
      exact List.mem_cons_self
    · exact List.mem_cons_of_mem _ (ih h)

/-- A key that is not read is not listed. -/
theorem Assoc.not_mem_of_get? {l : List (Nat × α)} {k : Nat} (h : Assoc.get? l k = none) : ∀ e ∈ l, e.1 ≠ k := by
  induction l with
  | nil => simp
  | cons c l ih =>
    unfold Assoc.get? at h
    split at h
    · simp at h
    · rename_i h1
      intro e he
      rcases List.mem_cons.mp he with he | he
      · subst he; exact h1
      · exact ih h e he

theorem Assoc.length_put_of_some {l : List (Nat × α)} (hl : Assoc.Rising l) {k : Nat} {v w : α} (h : Assoc.get? l k = some w) :
    (Assoc.put l k v).length = l.length := by
  induction l with
  | nil => simp [Assoc.get?] at h
  | cons c l ih =>
    obtain ⟨q, u⟩ := c
    have hc := List.pairwise_cons.mp hl
    unfold Assoc.get? at h
    unfold Assoc.put
    split
    · rename_i h1
      rw [if_neg (by omega)] at h
      have := hc.1 _ (Assoc.mem_of_get? h)
      simp at this
      omega
    · split
      · rfl
      · rw [if_neg (by omega)] at h
        simp [ih hc.2 h]

theorem Assoc.length_put_of_none {l : List (Nat × α)} {k : Nat} {v : α} (h : Assoc.get? l k = none) :
    (Assoc.put l k v).length = l.length + 1 := by
  induction l with
  | nil => rfl
  | cons c l ih =>
    obtain ⟨q, u⟩ := c
    unfold Assoc.get? at h
    split at h
    · simp at h
    · rename_i h1
      unfold Assoc.put
      split
      · rfl
      · rw [if_neg (by omega)]
        simp [ih h]

theorem Assoc.length_erase_le (l : List (Nat × α)) (k : Nat) : (Assoc.erase l k).length ≤ l.length :=
  (Assoc.erase_sublist l k).length_le

theorem Assoc.get?_isSome_of_mem {l : List (Nat × α)} {e : Nat × α} (h : e ∈ l) : (Assoc.get? l e.1).isSome := by
  rw [Option.isSome_iff_ne_none]
  exact fun hn => Assoc.not_mem_of_get? hn e h rfl

/-- As many keys as there are entries, at most. -/
theorem Assoc.le_length_of_present {l : List (Nat × α)} {n : Nat} (h : ∀ i, i < n → (Assoc.get? l i).isSome) :
    n ≤ l.length := by
  have hsub : List.range n ⊆ l.map Prod.fst := fun i hi => by
    obtain ⟨v, hv⟩ := Option.isSome_iff_exists.mp (h i (List.mem_range.mp hi))
    exact List.mem_map.mpr ⟨(i, v), Assoc.mem_of_get? hv, rfl⟩
  simpa using (List.nodup_range.subperm hsub).length_le

/-- Everything the search can answer: all keys it passed are present, and it stops at an absent one or at the end of its
fuel. -/
theorem Assoc.firstAbsent_spec {l fuel : List (Nat × α)} (hf : ∀ e ∈ fuel, e ∈ l) (i : Nat) :
    (∀ j, i ≤ j → j < Assoc.firstAbsent l fuel i → (Assoc.get? l j).isSome) ∧
      (Assoc.get? l (Assoc.firstAbsent l fuel i) = none ∨ Assoc.firstAbsent l fuel i = i + fuel.length) := by
  induction fuel generalizing i with
  | nil => exact ⟨fun j h1 h2 => by simp only [Assoc.firstAbsent] at h2; omega, .inr rfl⟩
  | cons e fuel ih =>
    obtain ⟨k, v⟩ := e
    unfold Assoc.firstAbsent
    split
    · rename_i hp
      obtain ⟨ih1, ih2⟩ := ih (fun e he => hf e (List.mem_cons_of_mem _ he)) (i + 1)
      have hi : (Assoc.get? l i).isSome := by
        simp only [Bool.or_eq_true, beq_iff_eq] at hp
        exact hp.elim (fun hk => hk ▸ Assoc.get?_isSome_of_mem (hf (k, v) List.mem_cons_self)) id
      refine ⟨fun j h1 h2 => ?_, ih2.imp_right fun h => by rw [h, List.length_cons]; omega⟩
      rcases Nat.eq_or_lt_of_le h1 with rfl | h1
      · exact hi
      · exact ih1 j h1 h2
    · rename_i hp
      simp only [Bool.or_eq_true, not_or, Bool.not_eq_true, Option.isSome_eq_false_iff, Option.isNone_iff_eq_none] at hp
      exact ⟨fun j h1 h2 => by omega, .inl hp.2⟩

theorem Assoc.present_of_lt_firstAbsent {l : List (Nat × α)} {i : Nat} (h : i < Assoc.firstAbsent l l 0) :
    (Assoc.get? l i).isSome :=
  (Assoc.firstAbsent_spec (fun _ he => he) 0).1 i (Nat.zero_le i) h

theorem Assoc.get?_firstAbsent (l : List (Nat × α)) : Assoc.get? l (Assoc.firstAbsent l l 0) = none := by
  obtain ⟨h1, h2 | h2⟩ := Assoc.firstAbsent_spec (l := l) (fun _ he => he) 0
  · exact h2
  · by_contra hn
    have := Assoc.le_length_of_present (l := l) (n := Assoc.firstAbsent l l 0 + 1) fun i hi => by
      rcases Nat.eq_or_lt_of_le (Nat.le_of_lt_succ hi) with rfl | hi
      · exact Option.isSome_iff_ne_none.mpr hn
      · exact h1 i (Nat.zero_le i) hi
    omega

end Sys2Proof.Machine
end

