-- ==== Sys2Proof/Laws/State.lean ====
section
/-! SUPPORT. One lemma per field per update of the shared operations, so that no later proof unfolds a record update. -/

namespace Sys2Proof.Machine

/-! ### advance -/

@[simp] theorem State.advance_config (s : State) : s.advance.config = s.config := rfl
@[simp] theorem State.advance_st (s : State) : s.advance.st = s.st := rfl
@[simp] theorem State.advance_pc (s : State) : s.advance.pc = s.pc + 1 := rfl
@[simp] theorem State.advance_x (s : State) : s.advance.x = s.x := rfl
@[simp] theorem State.advance_regions (s : State) : s.advance.regions = s.regions := rfl
@[simp] theorem State.advance_cursor (s : State) : s.advance.cursor = s.cursor := rfl
@[simp] theorem State.advance_cs (s : State) : s.advance.cs = s.cs := rfl
@[simp] theorem State.advance_out (s : State) : s.advance.out = s.out := rfl
@[simp] theorem State.advance_faultCause (s : State) : s.advance.faultCause = s.faultCause := rfl
@[simp] theorem State.advance_faultPc (s : State) : s.advance.faultPc = s.faultPc := rfl
@[simp] theorem State.advance_imem (s : State) : s.advance.imem = s.imem := rfl
@[simp] theorem State.advance_progLen (s : State) : s.advance.progLen = s.progLen := rfl
@[simp] theorem State.advance_resetLine (s : State) : s.advance.resetLine = s.resetLine := rfl
@[simp] theorem State.advance_runEnable (s : State) : s.advance.runEnable = s.runEnable := rfl
@[simp] theorem State.advance_eventReady (s : State) : s.advance.eventReady = s.eventReady := rfl
@[simp] theorem State.advance_delivered (s : State) : s.advance.delivered = s.delivered := rfl
@[simp] theorem State.advance_reg (s : State) (r : Nat) : s.advance.reg r = s.reg r := rfl

/-! ### setPc -/

@[simp] theorem State.setPc_config (s : State) (t : U32) : (s.setPc t).config = s.config := rfl
@[simp] theorem State.setPc_st (s : State) (t : U32) : (s.setPc t).st = s.st := rfl
@[simp] theorem State.setPc_pc (s : State) (t : U32) : (s.setPc t).pc = t := rfl
@[simp] theorem State.setPc_x (s : State) (t : U32) : (s.setPc t).x = s.x := rfl
@[simp] theorem State.setPc_regions (s : State) (t : U32) : (s.setPc t).regions = s.regions := rfl
@[simp] theorem State.setPc_cursor (s : State) (t : U32) : (s.setPc t).cursor = s.cursor := rfl
@[simp] theorem State.setPc_cs (s : State) (t : U32) : (s.setPc t).cs = s.cs := rfl
@[simp] theorem State.setPc_out (s : State) (t : U32) : (s.setPc t).out = s.out := rfl
@[simp] theorem State.setPc_faultCause (s : State) (t : U32) : (s.setPc t).faultCause = s.faultCause := rfl
@[simp] theorem State.setPc_faultPc (s : State) (t : U32) : (s.setPc t).faultPc = s.faultPc := rfl
@[simp] theorem State.setPc_imem (s : State) (t : U32) : (s.setPc t).imem = s.imem := rfl
@[simp] theorem State.setPc_progLen (s : State) (t : U32) : (s.setPc t).progLen = s.progLen := rfl
@[simp] theorem State.setPc_resetLine (s : State) (t : U32) : (s.setPc t).resetLine = s.resetLine := rfl
@[simp] theorem State.setPc_runEnable (s : State) (t : U32) : (s.setPc t).runEnable = s.runEnable := rfl
@[simp] theorem State.setPc_eventReady (s : State) (t : U32) : (s.setPc t).eventReady = s.eventReady := rfl
@[simp] theorem State.setPc_delivered (s : State) (t : U32) : (s.setPc t).delivered = s.delivered := rfl
@[simp] theorem State.setPc_reg (s : State) (t : U32) (r : Nat) : (s.setPc t).reg r = s.reg r := rfl

/-! ### emit -/

@[simp] theorem State.emit_config (s : State) (e : EventRecord) : (s.emit e).config = s.config := rfl
@[simp] theorem State.emit_st (s : State) (e : EventRecord) : (s.emit e).st = s.st := rfl
@[simp] theorem State.emit_pc (s : State) (e : EventRecord) : (s.emit e).pc = s.pc := rfl
@[simp] theorem State.emit_x (s : State) (e : EventRecord) : (s.emit e).x = s.x := rfl
@[simp] theorem State.emit_regions (s : State) (e : EventRecord) : (s.emit e).regions = s.regions := rfl
@[simp] theorem State.emit_cursor (s : State) (e : EventRecord) : (s.emit e).cursor = s.cursor := rfl
@[simp] theorem State.emit_cs (s : State) (e : EventRecord) : (s.emit e).cs = s.cs := rfl
@[simp] theorem State.emit_out (s : State) (e : EventRecord) : (s.emit e).out = s.out ++ [e] := rfl
@[simp] theorem State.emit_faultCause (s : State) (e : EventRecord) : (s.emit e).faultCause = s.faultCause := rfl
@[simp] theorem State.emit_faultPc (s : State) (e : EventRecord) : (s.emit e).faultPc = s.faultPc := rfl
@[simp] theorem State.emit_imem (s : State) (e : EventRecord) : (s.emit e).imem = s.imem := rfl
@[simp] theorem State.emit_progLen (s : State) (e : EventRecord) : (s.emit e).progLen = s.progLen := rfl
@[simp] theorem State.emit_resetLine (s : State) (e : EventRecord) : (s.emit e).resetLine = s.resetLine := rfl
@[simp] theorem State.emit_runEnable (s : State) (e : EventRecord) : (s.emit e).runEnable = s.runEnable := rfl
@[simp] theorem State.emit_eventReady (s : State) (e : EventRecord) : (s.emit e).eventReady = s.eventReady := rfl
@[simp] theorem State.emit_delivered (s : State) (e : EventRecord) : (s.emit e).delivered = s.delivered := rfl
@[simp] theorem State.emit_index (s : State) (e : EventRecord) : (s.emit e).index = s.index := rfl
@[simp] theorem State.emit_reg (s : State) (e : EventRecord) (r : Nat) : (s.emit e).reg r = s.reg r := rfl

/-! ### trace -/

@[simp] theorem State.trace_config (s : State) (op : Byte) (p : Payload) : (s.trace op p).config = s.config := rfl
@[simp] theorem State.trace_st (s : State) (op : Byte) (p : Payload) : (s.trace op p).st = s.st := rfl
@[simp] theorem State.trace_pc (s : State) (op : Byte) (p : Payload) : (s.trace op p).pc = s.pc := rfl
@[simp] theorem State.trace_x (s : State) (op : Byte) (p : Payload) : (s.trace op p).x = s.x := rfl
@[simp] theorem State.trace_regions (s : State) (op : Byte) (p : Payload) : (s.trace op p).regions = s.regions := rfl
@[simp] theorem State.trace_cursor (s : State) (op : Byte) (p : Payload) : (s.trace op p).cursor = s.cursor := rfl
@[simp] theorem State.trace_cs (s : State) (op : Byte) (p : Payload) : (s.trace op p).cs = s.cs := rfl
@[simp] theorem State.trace_out (s : State) (op : Byte) (p : Payload) : (s.trace op p).out = s.out ++ [.trace s.index op p] := rfl
@[simp] theorem State.trace_faultCause (s : State) (op : Byte) (p : Payload) : (s.trace op p).faultCause = s.faultCause := rfl
@[simp] theorem State.trace_faultPc (s : State) (op : Byte) (p : Payload) : (s.trace op p).faultPc = s.faultPc := rfl
@[simp] theorem State.trace_imem (s : State) (op : Byte) (p : Payload) : (s.trace op p).imem = s.imem := rfl
@[simp] theorem State.trace_progLen (s : State) (op : Byte) (p : Payload) : (s.trace op p).progLen = s.progLen := rfl
@[simp] theorem State.trace_resetLine (s : State) (op : Byte) (p : Payload) : (s.trace op p).resetLine = s.resetLine := rfl
@[simp] theorem State.trace_runEnable (s : State) (op : Byte) (p : Payload) : (s.trace op p).runEnable = s.runEnable := rfl
@[simp] theorem State.trace_eventReady (s : State) (op : Byte) (p : Payload) : (s.trace op p).eventReady = s.eventReady := rfl
@[simp] theorem State.trace_delivered (s : State) (op : Byte) (p : Payload) : (s.trace op p).delivered = s.delivered := rfl
@[simp] theorem State.trace_index (s : State) (op : Byte) (p : Payload) : (s.trace op p).index = s.index := rfl
@[simp] theorem State.trace_reg (s : State) (op : Byte) (p : Payload) (r : Nat) : (s.trace op p).reg r = s.reg r := rfl

/-! ### diag -/

@[simp] theorem State.diag_config (s : State) (d : Diag) : (s.diag d).config = s.config := rfl
@[simp] theorem State.diag_st (s : State) (d : Diag) : (s.diag d).st = s.st := rfl
@[simp] theorem State.diag_pc (s : State) (d : Diag) : (s.diag d).pc = s.pc := rfl
@[simp] theorem State.diag_x (s : State) (d : Diag) : (s.diag d).x = s.x := rfl
@[simp] theorem State.diag_regions (s : State) (d : Diag) : (s.diag d).regions = s.regions := rfl
@[simp] theorem State.diag_cursor (s : State) (d : Diag) : (s.diag d).cursor = s.cursor := rfl
@[simp] theorem State.diag_cs (s : State) (d : Diag) : (s.diag d).cs = s.cs := rfl
@[simp] theorem State.diag_out (s : State) (d : Diag) : (s.diag d).out = s.out ++ [.diag s.index d] := rfl
@[simp] theorem State.diag_faultCause (s : State) (d : Diag) : (s.diag d).faultCause = s.faultCause := rfl
@[simp] theorem State.diag_faultPc (s : State) (d : Diag) : (s.diag d).faultPc = s.faultPc := rfl
@[simp] theorem State.diag_imem (s : State) (d : Diag) : (s.diag d).imem = s.imem := rfl
@[simp] theorem State.diag_progLen (s : State) (d : Diag) : (s.diag d).progLen = s.progLen := rfl
@[simp] theorem State.diag_resetLine (s : State) (d : Diag) : (s.diag d).resetLine = s.resetLine := rfl
@[simp] theorem State.diag_runEnable (s : State) (d : Diag) : (s.diag d).runEnable = s.runEnable := rfl
@[simp] theorem State.diag_eventReady (s : State) (d : Diag) : (s.diag d).eventReady = s.eventReady := rfl
@[simp] theorem State.diag_delivered (s : State) (d : Diag) : (s.diag d).delivered = s.delivered := rfl
@[simp] theorem State.diag_index (s : State) (d : Diag) : (s.diag d).index = s.index := rfl
@[simp] theorem State.diag_reg (s : State) (d : Diag) (r : Nat) : (s.diag d).reg r = s.reg r := rfl

/-! ### raise -/

@[simp] theorem State.raise_config (s : State) (c : FaultCode) : (s.raise c).config = s.config := rfl
@[simp] theorem State.raise_st (s : State) (c : FaultCode) : (s.raise c).st = .faulted := rfl
@[simp] theorem State.raise_pc (s : State) (c : FaultCode) : (s.raise c).pc = s.pc := rfl
@[simp] theorem State.raise_x (s : State) (c : FaultCode) : (s.raise c).x = s.x := rfl
@[simp] theorem State.raise_regions (s : State) (c : FaultCode) : (s.raise c).regions = s.regions := rfl
@[simp] theorem State.raise_cursor (s : State) (c : FaultCode) : (s.raise c).cursor = s.cursor := rfl
@[simp] theorem State.raise_cs (s : State) (c : FaultCode) : (s.raise c).cs = s.cs := rfl
@[simp] theorem State.raise_out (s : State) (c : FaultCode) : (s.raise c).out = s.out ++ [.fault s.index c] := rfl
@[simp] theorem State.raise_faultCause (s : State) (c : FaultCode) : (s.raise c).faultCause = c.code := rfl
@[simp] theorem State.raise_faultPc (s : State) (c : FaultCode) : (s.raise c).faultPc = s.index := rfl
@[simp] theorem State.raise_imem (s : State) (c : FaultCode) : (s.raise c).imem = s.imem := rfl
@[simp] theorem State.raise_progLen (s : State) (c : FaultCode) : (s.raise c).progLen = s.progLen := rfl
@[simp] theorem State.raise_resetLine (s : State) (c : FaultCode) : (s.raise c).resetLine = s.resetLine := rfl
@[simp] theorem State.raise_runEnable (s : State) (c : FaultCode) : (s.raise c).runEnable = s.runEnable := rfl
@[simp] theorem State.raise_eventReady (s : State) (c : FaultCode) : (s.raise c).eventReady = s.eventReady := rfl
@[simp] theorem State.raise_delivered (s : State) (c : FaultCode) : (s.raise c).delivered = s.delivered := rfl
@[simp] theorem State.raise_index (s : State) (c : FaultCode) : (s.raise c).index = s.index := rfl
@[simp] theorem State.raise_reg (s : State) (c : FaultCode) (r : Nat) : (s.raise c).reg r = s.reg r := rfl

/-! ### halt -/

@[simp] theorem State.halt_config (s : State) : s.halt.config = s.config := rfl
@[simp] theorem State.halt_st (s : State) : s.halt.st = .halted := rfl
@[simp] theorem State.halt_pc (s : State) : s.halt.pc = s.pc := rfl
@[simp] theorem State.halt_x (s : State) : s.halt.x = s.x := rfl
@[simp] theorem State.halt_regions (s : State) : s.halt.regions = s.regions := rfl
@[simp] theorem State.halt_cursor (s : State) : s.halt.cursor = s.cursor := rfl
@[simp] theorem State.halt_cs (s : State) : s.halt.cs = s.cs := rfl
@[simp] theorem State.halt_out (s : State) : s.halt.out = s.out := rfl
@[simp] theorem State.halt_faultCause (s : State) : s.halt.faultCause = s.faultCause := rfl
@[simp] theorem State.halt_faultPc (s : State) : s.halt.faultPc = s.faultPc := rfl
@[simp] theorem State.halt_imem (s : State) : s.halt.imem = s.imem := rfl
@[simp] theorem State.halt_progLen (s : State) : s.halt.progLen = s.progLen := rfl
@[simp] theorem State.halt_resetLine (s : State) : s.halt.resetLine = s.resetLine := rfl
@[simp] theorem State.halt_runEnable (s : State) : s.halt.runEnable = s.runEnable := rfl
@[simp] theorem State.halt_eventReady (s : State) : s.halt.eventReady = s.eventReady := rfl
@[simp] theorem State.halt_delivered (s : State) : s.halt.delivered = s.delivered := rfl
@[simp] theorem State.halt_index (s : State) : s.halt.index = s.index := rfl
@[simp] theorem State.halt_reg (s : State) (r : Nat) : s.halt.reg r = s.reg r := rfl

/-! ### pushCall -/

@[simp] theorem State.pushCall_config (s : State) (v : U32) : (s.pushCall v).config = s.config := rfl
@[simp] theorem State.pushCall_st (s : State) (v : U32) : (s.pushCall v).st = s.st := rfl
@[simp] theorem State.pushCall_pc (s : State) (v : U32) : (s.pushCall v).pc = s.pc := rfl
@[simp] theorem State.pushCall_x (s : State) (v : U32) : (s.pushCall v).x = s.x := rfl
@[simp] theorem State.pushCall_regions (s : State) (v : U32) : (s.pushCall v).regions = s.regions := rfl
@[simp] theorem State.pushCall_cursor (s : State) (v : U32) : (s.pushCall v).cursor = s.cursor := rfl
@[simp] theorem State.pushCall_cs (s : State) (v : U32) : (s.pushCall v).cs = s.cs ++ [v] := rfl
@[simp] theorem State.pushCall_out (s : State) (v : U32) : (s.pushCall v).out = s.out := rfl
@[simp] theorem State.pushCall_faultCause (s : State) (v : U32) : (s.pushCall v).faultCause = s.faultCause := rfl
@[simp] theorem State.pushCall_faultPc (s : State) (v : U32) : (s.pushCall v).faultPc = s.faultPc := rfl
@[simp] theorem State.pushCall_imem (s : State) (v : U32) : (s.pushCall v).imem = s.imem := rfl
@[simp] theorem State.pushCall_progLen (s : State) (v : U32) : (s.pushCall v).progLen = s.progLen := rfl
@[simp] theorem State.pushCall_resetLine (s : State) (v : U32) : (s.pushCall v).resetLine = s.resetLine := rfl
@[simp] theorem State.pushCall_runEnable (s : State) (v : U32) : (s.pushCall v).runEnable = s.runEnable := rfl
@[simp] theorem State.pushCall_eventReady (s : State) (v : U32) : (s.pushCall v).eventReady = s.eventReady := rfl
@[simp] theorem State.pushCall_delivered (s : State) (v : U32) : (s.pushCall v).delivered = s.delivered := rfl
@[simp] theorem State.pushCall_index (s : State) (v : U32) : (s.pushCall v).index = s.index := rfl
@[simp] theorem State.pushCall_reg (s : State) (v : U32) (r : Nat) : (s.pushCall v).reg r = s.reg r := rfl

/-! ### acceptRecord -/

@[simp] theorem State.acceptRecord_config (s : State) : s.acceptRecord.config = s.config := rfl
@[simp] theorem State.acceptRecord_st (s : State) : s.acceptRecord.st = s.st := rfl
@[simp] theorem State.acceptRecord_pc (s : State) : s.acceptRecord.pc = s.pc := rfl
@[simp] theorem State.acceptRecord_x (s : State) : s.acceptRecord.x = s.x := rfl
@[simp] theorem State.acceptRecord_regions (s : State) : s.acceptRecord.regions = s.regions := rfl
@[simp] theorem State.acceptRecord_cursor (s : State) : s.acceptRecord.cursor = s.cursor := rfl
@[simp] theorem State.acceptRecord_cs (s : State) : s.acceptRecord.cs = s.cs := rfl
@[simp] theorem State.acceptRecord_out (s : State) : s.acceptRecord.out = s.out := rfl
@[simp] theorem State.acceptRecord_faultCause (s : State) : s.acceptRecord.faultCause = s.faultCause := rfl
@[simp] theorem State.acceptRecord_faultPc (s : State) : s.acceptRecord.faultPc = s.faultPc := rfl
@[simp] theorem State.acceptRecord_imem (s : State) : s.acceptRecord.imem = s.imem := rfl
@[simp] theorem State.acceptRecord_progLen (s : State) : s.acceptRecord.progLen = s.progLen := rfl
@[simp] theorem State.acceptRecord_resetLine (s : State) : s.acceptRecord.resetLine = s.resetLine := rfl
@[simp] theorem State.acceptRecord_runEnable (s : State) : s.acceptRecord.runEnable = s.runEnable := rfl
@[simp] theorem State.acceptRecord_eventReady (s : State) : s.acceptRecord.eventReady = s.eventReady := rfl
@[simp] theorem State.acceptRecord_delivered (s : State) : s.acceptRecord.delivered = s.delivered + 1 := rfl
@[simp] theorem State.acceptRecord_index (s : State) : s.acceptRecord.index = s.index := rfl
@[simp] theorem State.acceptRecord_reg (s : State) (r : Nat) : s.acceptRecord.reg r = s.reg r := rfl

/-! ### applyReset -/

@[simp] theorem State.applyReset_config (s : State) : s.applyReset.config = s.config := rfl
@[simp] theorem State.applyReset_st (s : State) : s.applyReset.st = .running := rfl
@[simp] theorem State.applyReset_pc (s : State) : s.applyReset.pc = 0 := rfl
@[simp] theorem State.applyReset_x (s : State) : s.applyReset.x = Vector.replicate 8 0 := rfl
@[simp] theorem State.applyReset_regions (s : State) : s.applyReset.regions = [] := rfl
@[simp] theorem State.applyReset_cursor (s : State) : s.applyReset.cursor = 0 := rfl
@[simp] theorem State.applyReset_cs (s : State) : s.applyReset.cs = [] := rfl
@[simp] theorem State.applyReset_out (s : State) : s.applyReset.out = [] := rfl
@[simp] theorem State.applyReset_faultCause (s : State) : s.applyReset.faultCause = 0 := rfl
@[simp] theorem State.applyReset_faultPc (s : State) : s.applyReset.faultPc = 0 := rfl
@[simp] theorem State.applyReset_imem (s : State) : s.applyReset.imem = s.imem := rfl
@[simp] theorem State.applyReset_progLen (s : State) : s.applyReset.progLen = s.progLen := rfl
@[simp] theorem State.applyReset_resetLine (s : State) : s.applyReset.resetLine = s.resetLine := rfl
@[simp] theorem State.applyReset_runEnable (s : State) : s.applyReset.runEnable = s.runEnable := rfl
@[simp] theorem State.applyReset_eventReady (s : State) : s.applyReset.eventReady = s.eventReady := rfl
@[simp] theorem State.applyReset_delivered (s : State) : s.applyReset.delivered = 0 := rfl

/-! ### setReg and offerRecord: the fields they leave -/

@[simp] theorem State.setReg_config (s : State) (r : Nat) (v : Word) : (s.setReg r v).config = s.config := by
  unfold State.setReg; split <;> rfl
@[simp] theorem State.setReg_st (s : State) (r : Nat) (v : Word) : (s.setReg r v).st = s.st := by
  unfold State.setReg; split <;> rfl
@[simp] theorem State.setReg_pc (s : State) (r : Nat) (v : Word) : (s.setReg r v).pc = s.pc := by
  unfold State.setReg; split <;> rfl
@[simp] theorem State.setReg_regions (s : State) (r : Nat) (v : Word) : (s.setReg r v).regions = s.regions := by
  unfold State.setReg; split <;> rfl
@[simp] theorem State.setReg_cursor (s : State) (r : Nat) (v : Word) : (s.setReg r v).cursor = s.cursor := by
  unfold State.setReg; split <;> rfl
@[simp] theorem State.setReg_cs (s : State) (r : Nat) (v : Word) : (s.setReg r v).cs = s.cs := by
  unfold State.setReg; split <;> rfl
@[simp] theorem State.setReg_out (s : State) (r : Nat) (v : Word) : (s.setReg r v).out = s.out := by
  unfold State.setReg; split <;> rfl
@[simp] theorem State.setReg_faultCause (s : State) (r : Nat) (v : Word) : (s.setReg r v).faultCause = s.faultCause := by
  unfold State.setReg; split <;> rfl
@[simp] theorem State.setReg_faultPc (s : State) (r : Nat) (v : Word) : (s.setReg r v).faultPc = s.faultPc := by
  unfold State.setReg; split <;> rfl
@[simp] theorem State.setReg_imem (s : State) (r : Nat) (v : Word) : (s.setReg r v).imem = s.imem := by
  unfold State.setReg; split <;> rfl
@[simp] theorem State.setReg_progLen (s : State) (r : Nat) (v : Word) : (s.setReg r v).progLen = s.progLen := by
  unfold State.setReg; split <;> rfl
@[simp] theorem State.setReg_resetLine (s : State) (r : Nat) (v : Word) : (s.setReg r v).resetLine = s.resetLine := by
  unfold State.setReg; split <;> rfl
@[simp] theorem State.setReg_runEnable (s : State) (r : Nat) (v : Word) : (s.setReg r v).runEnable = s.runEnable := by
  unfold State.setReg; split <;> rfl
@[simp] theorem State.setReg_eventReady (s : State) (r : Nat) (v : Word) : (s.setReg r v).eventReady = s.eventReady := by
  unfold State.setReg; split <;> rfl
@[simp] theorem State.setReg_delivered (s : State) (r : Nat) (v : Word) : (s.setReg r v).delivered = s.delivered := by
  unfold State.setReg; split <;> rfl
@[simp] theorem State.setReg_index (s : State) (r : Nat) (v : Word) : (s.setReg r v).index = s.index := by
  simp [State.index]
@[simp] theorem State.offerRecord_config (s : State) : s.offerRecord.config = s.config := by
  unfold State.offerRecord; split <;> rfl
@[simp] theorem State.offerRecord_st (s : State) : s.offerRecord.st = s.st := by
  unfold State.offerRecord; split <;> rfl
@[simp] theorem State.offerRecord_pc (s : State) : s.offerRecord.pc = s.pc := by
  unfold State.offerRecord; split <;> rfl
@[simp] theorem State.offerRecord_x (s : State) : s.offerRecord.x = s.x := by
  unfold State.offerRecord; split <;> rfl
@[simp] theorem State.offerRecord_regions (s : State) : s.offerRecord.regions = s.regions := by
  unfold State.offerRecord; split <;> rfl
@[simp] theorem State.offerRecord_cursor (s : State) : s.offerRecord.cursor = s.cursor := by
  unfold State.offerRecord; split <;> rfl
@[simp] theorem State.offerRecord_cs (s : State) : s.offerRecord.cs = s.cs := by
  unfold State.offerRecord; split <;> rfl
@[simp] theorem State.offerRecord_out (s : State) : s.offerRecord.out = s.out := by
  unfold State.offerRecord; split <;> rfl
@[simp] theorem State.offerRecord_faultCause (s : State) : s.offerRecord.faultCause = s.faultCause := by
  unfold State.offerRecord; split <;> rfl
@[simp] theorem State.offerRecord_faultPc (s : State) : s.offerRecord.faultPc = s.faultPc := by
  unfold State.offerRecord; split <;> rfl
@[simp] theorem State.offerRecord_imem (s : State) : s.offerRecord.imem = s.imem := by
  unfold State.offerRecord; split <;> rfl
@[simp] theorem State.offerRecord_progLen (s : State) : s.offerRecord.progLen = s.progLen := by
  unfold State.offerRecord; split <;> rfl
@[simp] theorem State.offerRecord_resetLine (s : State) : s.offerRecord.resetLine = s.resetLine := by
  unfold State.offerRecord; split <;> rfl
@[simp] theorem State.offerRecord_runEnable (s : State) : s.offerRecord.runEnable = s.runEnable := by
  unfold State.offerRecord; split <;> rfl
@[simp] theorem State.offerRecord_eventReady (s : State) : s.offerRecord.eventReady = s.eventReady := by
  unfold State.offerRecord; split <;> rfl
@[simp] theorem State.offerRecord_reg (s : State) (r : Nat) : s.offerRecord.reg r = s.reg r := by
  simp [State.reg]

/-! ### The register file (R30) -/

theorem State.reg_setReg_same (s : State) {r : Nat} (v : Word) (h : r < 8) : (s.setReg r v).reg r = v := by
  simp [State.reg, State.setReg, h]

theorem State.reg_setReg_other (s : State) {r q : Nat} (v : Word) (h : q ≠ r) : (s.setReg r v).reg q = s.reg q := by
  by_cases hr : r < 8
  · by_cases hq : q < 8
    · simp [State.reg, State.setReg, hr, hq, h.symm]
    · simp [State.reg, hq]
  · simp [State.setReg, hr]

/-- A register file is determined by its eight readings. -/
theorem State.x_ext {s t : State} (h : ∀ r, r < 8 → s.reg r = t.reg r) : s.x = t.x := by
  apply Vector.ext
  intro i hi
  simpa [State.reg, hi] using h i hi

end Sys2Proof.Machine
end

