-- ==== Sys2Proof/Laws/Operands.lean ====
section
/-! SUPPORT. What the operand checks and the small conversions can answer. -/

namespace Sys2Proof.Machine

@[simp] theorem validReg_iff (r : Nat) : validReg r = true ↔ r < 8 := by simp [validReg]

theorem firstInvalid_none_iff (rs : List Nat) : firstInvalid rs = none ↔ ∀ r ∈ rs, r < 8 := by
  induction rs with
  | nil => simp [firstInvalid]
  | cons r rs ih => by_cases h : r < 8 <;> simp [firstInvalid, validReg, h, ih]

/-- The first invalid operand is one of the operands and names no register. -/
theorem firstInvalid_some {rs : List Nat} {r : Nat} (h : firstInvalid rs = some r) : r ∈ rs ∧ 8 ≤ r := by
  induction rs with
  | nil => simp [firstInvalid] at h
  | cons q rs ih =>
    unfold firstInvalid at h
    split at h
    · exact ⟨List.mem_cons_of_mem _ (ih h).1, (ih h).2⟩
    · rename_i hq
      simp [validReg] at hq
      simp at h
      subst h
      exact ⟨List.mem_cons_self, hq⟩

theorem firstInvalid_eq_find? (rs : List Nat) : firstInvalid rs = rs.find? fun r => decide (8 ≤ r) := by
  induction rs with
  | nil => rfl
  | cons r rs ih =>
    by_cases h : r < 8
    · simp [firstInvalid, validReg, h, ih, show ¬ 8 ≤ r by omega]
    · simp [firstInvalid, validReg, h, show 8 ≤ r by omega]

theorem checkRegs_valid {rs : List Nat} (h : ∀ r ∈ rs, r < 8) (s : State) (go : Result) : checkRegs rs s go = go := by
  simp [checkRegs, (firstInvalid_none_iff rs).mpr h]

theorem checkRegs_invalid {rs : List Nat} {r : Nat} (h : firstInvalid rs = some r) (s : State) (go : Result) :
    checkRegs rs s go = .next (s.diag (.invalidRegister r)) := by
  simp [checkRegs, h]

/-- Everything the register check can answer. -/
theorem checkRegs_next {rs : List Nat} {s t : State} {go : Result} (h : checkRegs rs s go = .next t) :
    (∃ r, firstInvalid rs = some r ∧ t = s.diag (.invalidRegister r)) ∨ ((∀ r ∈ rs, r < 8) ∧ go = .next t) := by
  unfold checkRegs at h
  split at h
  · rename_i r hr
    simp only [Host.Outcome.next.injEq] at h
    exact .inl ⟨r, hr, h.symm⟩
  · rename_i hr
    exact .inr ⟨(firstInvalid_none_iff rs).mp hr, h⟩

theorem trunc8_toNat (v : Word) : (trunc8 v).toNat = v.toNat % 2 ^ 8 := by simp [trunc8]

theorem zext32_toNat (b : Byte) : (zext32 b).toNat = b.toNat := by
  have := b.isLt
  simp only [zext32, BitVec.toNat_setWidth]
  omega

theorem saturate32_toNat (t : Nat) : (saturate32 t).toNat = min t (2 ^ 32 - 1) := by
  rw [saturate32, BitVec.toNat_ofNat]
  exact Nat.mod_eq_of_lt (by omega)

theorem s32_wrap32 {n : Int} (h1 : -2 ^ 31 ≤ n) (h2 : n < 2 ^ 31) : s32 (wrap32 n) = n := by
  unfold s32 wrap32
  rw [BitVec.toInt_ofInt]
  apply Int.bmod_eq_of_le <;> omega

@[simp] theorem targetInProgram_iff (s : State) (t : Nat) : s.targetInProgram t = true ↔ t < s.progLen.toNat := by
  simp [State.targetInProgram]

theorem callStackFull_iff (s : State) : s.callStackFull = true ↔ s.config.callDepth ≤ s.cs.length := by
  simp [State.callStackFull]

theorem arenaExhausted_iff (s : State) (size : Nat) :
    s.arenaExhausted size = true ↔ s.config.arenaLimit.toNat < s.cursor.toNat + size := by
  simp [State.arenaExhausted]

@[simp] theorem advance_pc_sub (s : State) : s.advance.index = s.pc := by simp [State.index]

end Sys2Proof.Machine
end

