-- ==== Sys2Proof/Laws/Exec.lean ====
section
/-! SUPPORT. What each instruction can do, said once with its guards: a diagnostic, a fault, a stray Return, or its
effect. Later proofs take an execution apart with `exec_cases` and never unfold a meaning. -/

namespace Sys2Proof.Machine

/-- An ALU instruction's effect: valid registers, the operation's result written to regDest, one TRACE record. -/
def AluEffect (op : Byte) (f : Word → Word → Except FaultCode Word) (a b d : Nat) (s t : State) : Prop :=
  a < 8 ∧ b < 8 ∧ d < 8 ∧
    ∃ v, f (s.reg a) (s.reg b) = .ok v ∧ t = (s.setReg d v).trace op (.alu a b d (s32 v))

/-- A taken, valid branch. -/
def JumpEffect (op : Byte) (offset : Nat) (s t : State) : Prop :=
  s.target offset < s.progLen.toNat ∧
    t = (s.trace op (.branch true (s.target offset))).setPc (BitVec.ofNat 32 (s.target offset))

/-- A conditional branch: taken and valid, or not taken. -/
def CondJumpEffect (op : Byte) (taken : Prop) (reg offset : Nat) (s t : State) : Prop :=
  reg < 8 ∧ ((taken ∧ JumpEffect op offset s t) ∨ (¬ taken ∧ t = s.trace op (.branch false s.pc.toNat)))

/-- The successful completion of an instruction, guards included. -/
def Effect (i : Instr) (s t : State) : Prop :=
  match i with
  | .setRegister reg value => reg < 8 ∧ t = (s.setReg reg (wrap32 value)).trace 0x01 (.move reg value)
  | .add a b d => AluEffect 0x02 (fun p q => .ok (addWord p q)) a b d s t
  | .sub a b d => AluEffect 0x03 (fun p q => .ok (subWord p q)) a b d s t
  | .mul a b d => AluEffect 0x04 (fun p q => .ok (mulWord p q)) a b d s t
  | .div a b d => AluEffect 0x05 (divCheck tdiv) a b d s t
  | .mod a b d => AluEffect 0x06 (divCheck trem) a b d s t
  | .eq a b d => AluEffect 0x07 (fun p q => .ok (eqWord p q)) a b d s t
  | .neq a b d => AluEffect 0x08 (fun p q => .ok (neqWord p q)) a b d s t
  | .gt a b d => AluEffect 0x09 (fun p q => .ok (gtWord p q)) a b d s t
  | .lt a b d => AluEffect 0x0A (fun p q => .ok (ltWord p q)) a b d s t
  | .gte a b d => AluEffect 0x0B (fun p q => .ok (gteWord p q)) a b d s t
  | .lte a b d => AluEffect 0x0C (fun p q => .ok (lteWord p q)) a b d s t
  | .jump offset => JumpEffect 0x0D offset s t
  | .jumpIfZero reg offset => CondJumpEffect 0x0E (s32 (s.reg reg) = 0) reg offset s t
  | .jumpIfNonZero reg offset => CondJumpEffect 0x0F (s32 (s.reg reg) ≠ 0) reg offset s t
  | .print reg => reg < 8 ∧ t = s.emit (.print s.index (s32 (s.reg reg)))
  | .halt => t = s.halt.trace 0x11 .empty
  | .allocateMemory size =>
    s.arenaExhausted size = false ∧ s.regionTableFull = false ∧
      t = State.trace
        { s with
          regions := Arena.allocate s.regions s.cursor.toNat size
          cursor := BitVec.ofNat 32 (s.cursor.toNat + size) }
        0x12 (.alloc size s.cursor.toNat)
  | .freeMemory address =>
    (∃ r, Arena.lookup s.regions address = some r) ∧
      t = State.trace { s with regions := Arena.free s.regions address } 0x13 (.free address)
  | .storeToMemory address reg offset =>
    reg < 8 ∧ (∃ r, Arena.lookup s.regions address = some r ∧ offset < r.size) ∧
      t = State.trace
        { s with regions := Arena.writeByte s.regions address offset (trunc8 (s.reg reg)) }
        0x14 (.store address offset (trunc8 (s.reg reg)))
  | .loadFromMemory address regDest =>
    regDest < 8 ∧ ∃ r, Arena.lookup s.regions address = some r ∧ 0 < r.size ∧
      t = (s.setReg regDest (zext32 (Memory.read r.cells 0))).trace
        0x15 (.load address regDest (s32 (zext32 (Memory.read r.cells 0))))
  | .call offset =>
    s.callStackFull = false ∧
      t = ((s.pushCall s.pc).trace 0x16 (.call s.pc (s.target offset))).setPc (saturate32 (s.target offset))
  | .ret =>
    ∃ v, s.cs.getLast? = some v ∧
      t = ((State.trace { s with cs := s.cs.dropLast } 0x17 (.ret v)).setPc v)

/-- What one execution can do. -/
inductive ExecCase (i : Instr) (s t : State) : Prop where
  | diag (d : Diag) (h : t = s.diag d)
  | raise (c : FaultCode) (h : t = s.raise c)
  | stray (hi : i = .ret) (hs : s.cs = []) (h : t = s)
  | effect (h : Effect i s t)

theorem execABD_cases {op : Byte} {f : Word → Word → Except FaultCode Word} {a b d : Nat} {s t : State}
    (h : execABD op f a b d s = .next t) :
    (∃ e, t = s.diag e) ∨ (∃ c, t = s.raise c) ∨ AluEffect op f a b d s t := by
  unfold execABD at h
  rcases checkRegs_next h with ⟨r, -, ht⟩ | ⟨hr, h⟩
  · exact .inl ⟨_, ht⟩
  · split at h
    · rename_i c hc
      simp only [Host.Outcome.next.injEq] at h
      exact .inr (.inl ⟨c, h.symm⟩)
    · rename_i v hv
      simp only [Host.Outcome.next.injEq] at h
      exact .inr (.inr ⟨hr a (by simp), hr b (by simp), hr d (by simp), v, hv, h.symm⟩)

theorem alu_case {i : Instr} (op : Byte) (f : Word → Word → Except FaultCode Word) {a b d : Nat} {s t : State}
    (h : execABD op f a b d s = .next t) (he : AluEffect op f a b d s t → Effect i s t) : ExecCase i s t := by
  rcases execABD_cases h with ⟨e, ht⟩ | ⟨c, ht⟩ | ht
  exacts [.diag e ht, .raise c ht, .effect (he ht)]

theorem doJump_cases {op : Byte} {offset : Nat} {s t : State} (h : doJump op offset s = .next t) :
    (∃ e, t = s.diag e) ∨ JumpEffect op offset s t := by
  unfold doJump at h
  split at h <;> simp only [Host.Outcome.next.injEq] at h
  · rename_i hb
    exact .inr ⟨by simpa [State.targetInProgram] using hb, h.symm⟩
  · exact .inl ⟨_, h.symm⟩

/-- Everything an execution that answers a next state can have done. -/
theorem exec_cases {i : Instr} {s t : State} (h : exec i s = .next t) : ExecCase i s t := by
  cases i with
  | setRegister reg value =>
    rcases checkRegs_next h with ⟨r, -, ht⟩ | ⟨hr, h⟩
    · exact .diag _ ht
    · simp only [Host.Outcome.next.injEq] at h
      exact .effect ⟨hr reg (by simp), h.symm⟩
  | add a b d => exact alu_case 0x02 (fun p q => .ok (addWord p q)) h id
  | sub a b d => exact alu_case 0x03 (fun p q => .ok (subWord p q)) h id
  | mul a b d => exact alu_case 0x04 (fun p q => .ok (mulWord p q)) h id
  | div a b d => exact alu_case 0x05 (divCheck tdiv) h id
  | mod a b d => exact alu_case 0x06 (divCheck trem) h id
  | eq a b d => exact alu_case 0x07 (fun p q => .ok (eqWord p q)) h id
  | neq a b d => exact alu_case 0x08 (fun p q => .ok (neqWord p q)) h id
  | gt a b d => exact alu_case 0x09 (fun p q => .ok (gtWord p q)) h id
  | lt a b d => exact alu_case 0x0A (fun p q => .ok (ltWord p q)) h id
  | gte a b d => exact alu_case 0x0B (fun p q => .ok (gteWord p q)) h id
  | lte a b d => exact alu_case 0x0C (fun p q => .ok (lteWord p q)) h id
  | jump offset => rcases doJump_cases h with ⟨e, ht⟩ | ht; exacts [.diag e ht, .effect ht]
  | jumpIfZero reg offset =>
    rcases checkRegs_next h with ⟨r, -, ht⟩ | ⟨hr, h⟩
    · exact .diag _ ht
    · split at h <;> rename_i hz <;> simp only [isZero, decide_eq_true_eq] at hz
      · rcases doJump_cases h with ⟨e, ht⟩ | ht
        exacts [.diag e ht, .effect ⟨hr reg (by simp), .inl ⟨hz, ht⟩⟩]
      · simp only [notTaken, Host.Outcome.next.injEq] at h
        exact .effect ⟨hr reg (by simp), .inr ⟨hz, h.symm⟩⟩
  | jumpIfNonZero reg offset =>
    rcases checkRegs_next h with ⟨r, -, ht⟩ | ⟨hr, h⟩
    · exact .diag _ ht
    · split at h <;> rename_i hz <;> simp only [isZero, decide_eq_true_eq] at hz
      · simp only [notTaken, Host.Outcome.next.injEq] at h
        exact .effect ⟨hr reg (by simp), .inr ⟨not_not.mpr hz, h.symm⟩⟩
      · rcases doJump_cases h with ⟨e, ht⟩ | ht
        exacts [.diag e ht, .effect ⟨hr reg (by simp), .inl ⟨hz, ht⟩⟩]
  | print reg =>
    rcases checkRegs_next h with ⟨r, -, ht⟩ | ⟨hr, h⟩
    · exact .diag _ ht
    · simp only [Host.Outcome.next.injEq] at h
      exact .effect ⟨hr reg (by simp), h.symm⟩
  | halt =>
    simp only [exec, execHalt, Host.Outcome.next.injEq] at h
    exact .effect h.symm
  | allocateMemory size =>
    simp only [exec, execAllocateMemory] at h
    split at h
    · simp only [Host.Outcome.next.injEq] at h
      exact .raise _ h.symm
    · split at h <;> simp only [Host.Outcome.next.injEq] at h
      · exact .raise _ h.symm
      · exact .effect ⟨by simp_all, by simp_all, h.symm⟩
  | freeMemory address =>
    simp only [exec, execFreeMemory] at h
    split at h <;> simp only [Host.Outcome.next.injEq] at h
    · exact .diag _ h.symm
    · rename_i r hr
      exact .effect ⟨⟨r, hr⟩, h.symm⟩
  | storeToMemory address reg offset =>
    rcases checkRegs_next h with ⟨r, -, ht⟩ | ⟨hr, h⟩
    · exact .diag _ ht
    · split at h
      · simp only [Host.Outcome.next.injEq] at h
        exact .diag _ h.symm
      · rename_i r hl
        split at h <;> simp only [Host.Outcome.next.injEq] at h
        · rename_i ho
          exact .effect ⟨hr reg (by simp), ⟨r, hl, ho⟩, h.symm⟩
        · exact .diag _ h.symm
  | loadFromMemory address regDest =>
    rcases checkRegs_next h with ⟨r, -, ht⟩ | ⟨hr, h⟩
    · exact .diag _ ht
    · split at h
      · simp only [Host.Outcome.next.injEq] at h
        exact .diag _ h.symm
      · rename_i r hl
        split at h <;> simp only [Host.Outcome.next.injEq] at h
        · exact .diag _ h.symm
        · rename_i ho
          exact .effect ⟨hr regDest (by simp), r, hl, by omega, h.symm⟩
  | call offset =>
    simp only [exec, execCall] at h
    split at h <;> simp only [Host.Outcome.next.injEq] at h
    · exact .raise _ h.symm
    · exact .effect ⟨by simp_all, h.symm⟩
  | ret =>
    simp only [exec, execReturn, State.popCall] at h
    cases hv : s.cs.getLast? with
    | none =>
      rw [hv] at h
      simp only [Host.Outcome.next.injEq] at h
      exact .stray rfl (by simpa using hv) h.symm
    | some v =>
      rw [hv] at h
      simp only [Host.Outcome.next.injEq] at h
      exact .effect ⟨v, hv, h.symm⟩

end Sys2Proof.Machine
end

