-- ==== Sys2Proof/Laws/Cycle.lean ====
section
/-! SUPPORT. What one transition of the block can do, said once. -/

namespace Sys2Proof.Machine

theorem recordWaiting_iff (s : State) : s.recordWaiting = true ↔ s.delivered < s.out.length := by
  simp [State.recordWaiting]

/-! ## A launch with a word missing (R345) -/

theorem firstUnloaded_eq_some {s : State} {i : U32} (h : s.firstUnloaded = some i) :
    i.toNat < s.progLen.toNat ∧ s.imemRead i = none ∧ ∀ j, j < i.toNat → (Assoc.get? s.imem j).isSome := by
  simp only [State.firstUnloaded] at h
  split at h
  · rename_i hlt
    have hb := s.progLen.isLt
    have hi : i.toNat = Assoc.firstAbsent s.imem s.imem 0 := by
      rw [← Option.some.inj h, BitVec.toNat_ofNat]
      omega
    rw [State.imemRead, hi]
    exact ⟨hlt, Assoc.get?_firstAbsent _, fun j hj => Assoc.present_of_lt_firstAbsent hj⟩
  · simp at h

theorem firstUnloaded_eq_none_iff (s : State) : s.firstUnloaded = none ↔ s.ProgramLoaded := by
  constructor
  · intro h i hi
    simp only [State.firstUnloaded] at h
    split at h
    · simp at h
    · exact Assoc.present_of_lt_firstAbsent (by omega)
  · intro h
    cases hf : s.firstUnloaded with
    | none => rfl
    | some i =>
      obtain ⟨hlt, hn, -⟩ := firstUnloaded_eq_some hf
      have := h _ hlt
      simp [← State.imemRead.eq_1, hn] at this

/-- A step of a loaded program runs it. -/
theorem runStep_of_loaded {s : State} (h : s.ProgramLoaded) : runStep s = runProgram s := by
  rw [runStep, (firstUnloaded_eq_none_iff s).mpr h]

theorem imemRead_of_loaded {s : State} (h : s.ProgramLoaded) (hp : s.pc.toNat < s.progLen.toNat) :
    ∃ w, s.imemRead s.pc = some w :=
  Option.isSome_iff_exists.mp (h _ hp)

/-- Below PROG_LEN a program's step runs the fetched word on the state after the increment. -/
theorem runProgram_of_word {s : State} (hp : s.pc.toNat < s.progLen.toNat) {w : InstrWord}
    (hw : s.imemRead s.pc = some w) : runProgram s = completeStep (runWord w s.advance) := by
  rw [runProgram, if_neg (by omega), hw]

/-- A loaded program can be launched. -/
theorem hostMove_releaseReset_of_loaded {s : State} (h : s.ProgramLoaded) :
    s.hostMove .releaseReset = some { s with resetLine := false } := by
  simp [State.hostMove, (firstUnloaded_eq_none_iff s).mpr h]

/-! ## The transition -/

/-- Everything a transition that answers a next state can have done. -/
inductive StepCase (s t : State) : Prop where
  /-- `reset` is asserted. -/
  | reset (hr : s.resetLine = true) (h : t = s.applyReset)
  /-- A record waits for the host. -/
  | waiting (hr : s.resetLine = false) (hw : s.recordWaiting = true) (h : t = s.offerRecord)
  /-- `run_enable` is deasserted. -/
  | paused (hr : s.resetLine = false) (hw : s.recordWaiting = false) (hs : s.st = .running)
      (he : s.runEnable = false) (h : t = s)
  /-- Past the end of the program. -/
  | fellOff (hc : s.canStart = true) (hl : s.ProgramLoaded) (hp : s.progLen.toNat ≤ s.pc.toNat) (h : t = s.halt)
  /-- An illegal word. -/
  | illegal (hc : s.canStart = true) (hl : s.ProgramLoaded) (hp : s.pc.toNat < s.progLen.toNat) (w : InstrWord)
      (hw : s.imemRead s.pc = some w) (e : DecodeError) (hd : decode w = .error e)
      (h : t = (s.advance.raise .illegalInstruction).offerRecord)
  /-- A legal word. -/
  | ran (hc : s.canStart = true) (hl : s.ProgramLoaded) (hp : s.pc.toNat < s.progLen.toNat) (w : InstrWord)
      (hw : s.imemRead s.pc = some w) (i : Instr) (hd : decode w = .ok i) (u : State)
      (hu : exec i s.advance = .next u) (h : t = u.offerRecord)

theorem completeStep_next {r : Result} {t : State} (h : completeStep r = .next t) :
    ∃ u, r = .next u ∧ t = u.offerRecord := by
  cases r with
  | next u => simp only [completeStep, Host.Outcome.next.injEq] at h; exact ⟨u, rfl, h.symm⟩
  | fault r => simp [completeStep] at h
  | refused r => simp [completeStep] at h

theorem step_cases {s t : State} (h : step s = .next t) : StepCase s t := by
  simp only [step, cycle] at h
  split at h
  · rename_i hr
    simp only [Host.Outcome.next.injEq] at h
    exact .reset hr h.symm
  · rename_i hr
    simp only [Bool.not_eq_true] at hr
    split at h
    · rename_i hw
      simp only [Host.Outcome.next.injEq] at h
      exact .waiting hr hw h.symm
    · rename_i hw
      simp only [Bool.not_eq_true] at hw
      split at h
      · simp at h
      · simp at h
      · rename_i hs
        split at h
        · rename_i he
          have hc : s.canStart = true := by simp [State.canStart, hr, hw, hs, he]
          simp only [runStep] at h
          split at h
          · simp at h
          · rename_i hu
            have hl := (firstUnloaded_eq_none_iff s).mp hu
            simp only [runProgram] at h
            split at h
            · rename_i hp
              simp only [Host.Outcome.next.injEq] at h
              exact .fellOff hc hl hp h.symm
            · rename_i hp
              split at h
              · simp at h
              · rename_i w hwd
                obtain ⟨u, hu, ht⟩ := completeStep_next h
                simp only [runWord] at hu
                split at hu
                · rename_i e hd
                  simp only [Host.Outcome.next.injEq] at hu
                  exact .illegal hc hl (by omega) w hwd e hd (hu ▸ ht)
                · rename_i i hd
                  exact .ran hc hl (by omega) w hwd i hd u hu ht
        · rename_i he
          simp only [Host.Outcome.next.injEq] at h
          exact .paused hr hw hs (by simpa using he) h.symm

/-- A step that can start is `runStep`. -/
theorem step_of_canStart {s : State} (h : s.canStart = true) : step s = runStep s := by
  simp only [State.canStart, Bool.and_eq_true, Bool.not_eq_true', beq_iff_eq] at h
  obtain ⟨⟨⟨h1, h2⟩, h3⟩, h4⟩ := h
  simp [step, cycle, h1, h2, h3, h4]

/-- The block made ready runs one step of its program. -/
theorem step_ready {s : State} (hl : s.ProgramLoaded) : step s.ready = runProgram s.ready := by
  rw [step_of_canStart (by simp [State.canStart, State.ready, State.recordWaiting]), runStep_of_loaded (s := s.ready) hl]

/-- `withFetchWord` does what it is for: the very next step runs the placed word, whatever the state. -/
theorem step_withFetchWord (s : State) (nbits w : Nat) :
    step (s.withFetchWord nbits w) = completeStep (runWord (tableWord nbits w) (s.withFetchWord nbits w).advance) := by
  have run : ∀ (i n : U32), i.toNat < n.toNat → (s.loadAt i n (tableWord nbits w)).ProgramLoaded →
      step (s.loadAt i n (tableWord nbits w)).ready =
        completeStep (runWord (tableWord nbits w) (s.loadAt i n (tableWord nbits w)).ready.advance) := fun i n hi hl => by
    rw [step_ready hl]
    exact runProgram_of_word hi (Assoc.get?_put_same _ _ _)
  simp only [State.withFetchWord, State.placeWord]
  generalize (if s.pc.toNat < s.progLen.toNat then s.progLen else s.pc + 1) = n
  split
  · rename_i h
    exact run _ _ h.1 ((firstUnloaded_eq_none_iff _).mp (Option.isNone_iff_eq_none.mp h.2))
  · refine run 0 1 (by decide) fun i hi => ?_
    obtain rfl : i = 0 := Nat.lt_one_iff.mp hi
    exact Option.isSome_iff_exists.mpr ⟨_, Assoc.get?_put_same _ _ _⟩

/-- The increment cannot overflow below PROG_LEN (40_dispatch.md R131). -/
theorem advance_toNat {s : State} (h : s.pc.toNat < s.progLen.toNat) : s.advance.pc.toNat = s.pc.toNat + 1 := by
  have := s.progLen.isLt
  rw [State.advance_pc, BitVec.toNat_add, show (1 : U32).toNat = 1 from rfl]
  omega

end Sys2Proof.Machine
end

