-- ==== Sys2Proof/Laws/Encoding.lean ====
section
/-! SUPPORT. The instruction word as its six fields: taking a field of a laid-out word, laying out a word's fields, and
masking field by field. -/

namespace Sys2Proof

section fields
variable (opc ra rb rd : Byte) (ia ib : U32)

@[simp] theorem opcField_layout : opcField (layout opc ra rb rd ia ib) = opc := by
  ext k hk
  simp only [opcField, layout, BitVec.getElem_extractLsb', BitVec.getLsbD_append]
  grind

@[simp] theorem raField_layout : raField (layout opc ra rb rd ia ib) = ra := by
  ext k hk
  simp only [raField, layout, BitVec.getElem_extractLsb', BitVec.getLsbD_append]
  grind

@[simp] theorem rbField_layout : rbField (layout opc ra rb rd ia ib) = rb := by
  ext k hk
  simp only [rbField, layout, BitVec.getElem_extractLsb', BitVec.getLsbD_append]
  grind

@[simp] theorem rdField_layout : rdField (layout opc ra rb rd ia ib) = rd := by
  ext k hk
  simp only [rdField, layout, BitVec.getElem_extractLsb', BitVec.getLsbD_append]
  grind

@[simp] theorem immAField_layout : immAField (layout opc ra rb rd ia ib) = ia := by
  ext k hk
  simp only [immAField, layout, BitVec.getElem_extractLsb', BitVec.getLsbD_append]
  grind

@[simp] theorem immBField_layout : immBField (layout opc ra rb rd ia ib) = ib := by
  ext k hk
  simp only [immBField, layout, BitVec.getElem_extractLsb', BitVec.getLsbD_append]
  grind

/-- Masking works field by field. -/
theorem layout_and (opc' ra' rb' rd' : Byte) (ia' ib' : U32) :
    layout opc ra rb rd ia ib &&& layout opc' ra' rb' rd' ia' ib' =
      layout (opc &&& opc') (ra &&& ra') (rb &&& rb') (rd &&& rd') (ia &&& ia') (ib &&& ib') := by
  apply BitVec.eq_of_getLsbD_eq
  intro k hk
  simp only [layout, BitVec.getLsbD_and, BitVec.getLsbD_append]
  grind

end fields

/-- A word is the layout of its fields. -/
theorem layout_fields (w : InstrWord) :
    layout (opcField w) (raField w) (rbField w) (rdField w) (immAField w) (immBField w) = w := by
  apply BitVec.eq_of_getLsbD_eq
  intro k hk
  simp only [opcField, raField, rbField, rdField, immAField, immBField, layout, BitVec.getLsbD_append,
    BitVec.getLsbD_extractLsb']
  grind

/-- Decoding a laid-out word is decoding its fields. -/
@[simp] theorem decode_layout (opc ra rb rd : Byte) (ia ib : U32) :
    decode (layout opc ra rb rd ia ib) = decodeFields opc ra rb rd ia ib := by
  simp [decode]

/-- The reserved-field masks as layouts. -/
theorem reservedMask_layout (f : Format) : f.reservedMask =
    match f with
    | .N => layout 0 0xFF 0xFF 0xFF 0xFFFFFFFF 0xFFFFFFFF
    | .DI => layout 0 0xFF 0xFF 0 0 0xFFFFFFFF
    | .ABD => layout 0 0 0 0 0xFFFFFFFF 0xFFFFFFFF
    | .I => layout 0 0xFF 0xFF 0xFF 0 0xFFFFFFFF
    | .AI => layout 0 0 0xFF 0xFF 0 0xFFFFFFFF
    | .A => layout 0 0 0xFF 0xFF 0xFFFFFFFF 0xFFFFFFFF
    | .AIJ => layout 0 0 0xFF 0xFF 0 0 := by
  cases f <;> decide

end Sys2Proof
end

