-- ==== Sys2Proof/Laws/Memory.lean ====
section
/-! SUPPORT. The bytes of a region and the arena: read after write, what a write leaves alone, and the canonical form
that every operation keeps. -/

namespace Sys2Proof.Machine

/-! ### A region's bytes -/

@[simp] theorem Memory.read_nil (o : Nat) : Memory.read [] o = 0 := rfl

theorem Memory.read_write_same (m : Memory) (o : Nat) (b : Byte) : Memory.read (Memory.write m o b) o = b := by
  unfold Memory.read Memory.write
  split
  · rename_i h
    simp [Assoc.get?_erase_same, h]
  · simp [Assoc.get?_put_same]

theorem Memory.read_write_other (m : Memory) {o q : Nat} (b : Byte) (h : q ≠ o) :
    Memory.read (Memory.write m o b) q = Memory.read m q := by
  unfold Memory.read Memory.write
  split
  · rw [Assoc.get?_erase_other _ h]
  · rw [Assoc.get?_put_other _ _ h]

theorem Memory.write_wf {m : Memory} (hm : Memory.wf m) (o : Nat) (b : Byte) : Memory.wf (Memory.write m o b) := by
  unfold Memory.write
  split
  · exact ⟨Assoc.rising_erase hm.1 o, fun c hc => hm.2 c (Assoc.mem_erase hc).1⟩
  · rename_i hb
    refine ⟨Assoc.rising_put hm.1 o b, fun c hc => ?_⟩
    rcases Assoc.mem_put hc with hc | hc
    · subst hc; exact hb
    · exact hm.2 c hc

theorem Region.fresh_wf {size : Nat} (h : size < 2 ^ 32) : Region.wf (Region.fresh size) := by
  refine ⟨⟨.nil, ?_⟩, ?_, h⟩ <;> simp [Region.fresh]

theorem Region.write_wf {r : Region} (hr : Region.wf r) {o : Nat} (ho : o < r.size) (b : Byte) :
    Region.wf { r with cells := Memory.write r.cells o b } := by
  refine ⟨Memory.write_wf hr.1 o b, fun c hc => ?_, hr.2.2⟩
  simp only [Memory.write] at hc
  split at hc
  · exact hr.2.1 c (Assoc.mem_erase hc).1
  · rcases Assoc.mem_put hc with hc | hc
    · subst hc; exact ho
    · exact hr.2.1 c hc

/-! ### The arena -/

theorem Arena.lookup_allocate_same (a : Arena) (k size : Nat) :
    Arena.lookup (Arena.allocate a k size) k = some (Region.fresh size) := Assoc.get?_put_same a k _

theorem Arena.lookup_allocate_other (a : Arena) {k q : Nat} (size : Nat) (h : q ≠ k) :
    Arena.lookup (Arena.allocate a k size) q = Arena.lookup a q := Assoc.get?_put_other a _ h

theorem Arena.lookup_free_same (a : Arena) (k : Nat) : Arena.lookup (Arena.free a k) k = none := Assoc.get?_erase_same a k

theorem Arena.lookup_free_other (a : Arena) {k q : Nat} (h : q ≠ k) :
    Arena.lookup (Arena.free a k) q = Arena.lookup a q := Assoc.get?_erase_other a h

theorem Arena.lookup_writeByte_same {a : Arena} {k : Nat} {r : Region} (h : Arena.lookup a k = some r) (o : Nat) (b : Byte) :
    Arena.lookup (Arena.writeByte a k o b) k = some { r with cells := Memory.write r.cells o b } := by
  unfold Arena.writeByte
  rw [h]
  exact Assoc.get?_put_same a k _

theorem Arena.lookup_writeByte_other (a : Arena) {k q : Nat} (o : Nat) (b : Byte) (h : q ≠ k) :
    Arena.lookup (Arena.writeByte a k o b) q = Arena.lookup a q := by
  unfold Arena.writeByte
  split
  · exact Assoc.get?_put_other a _ h
  · rfl

/-- A store is seen at its own address and nowhere else (R76). -/
theorem Arena.byteAt_writeByte {a : Arena} {k o : Nat} {r : Region} (h : Arena.lookup a k = some r) (ho : o < r.size)
    (b : Byte) (q p : Nat) :
    Arena.byteAt (Arena.writeByte a k o b) q p = if q = k ∧ p = o then some b else Arena.byteAt a q p := by
  unfold Arena.byteAt
  by_cases hq : q = k
  · subst hq
    rw [Arena.lookup_writeByte_same h, h]
    by_cases hp : p = o
    · subst hp
      simp [ho, Memory.read_write_same]
    · simp [hp, Memory.read_write_other _ _ hp]
  · rw [Arena.lookup_writeByte_other _ _ _ hq]
    simp [hq]

theorem Arena.allocate_wf {a : Arena} (ha : Arena.wf a) {k size : Nat} (hk : k < 2 ^ 32) (hs : size < 2 ^ 32) :
    Arena.wf (Arena.allocate a k size) := by
  refine ⟨Assoc.rising_put ha.1 k _, fun e he => ?_⟩
  rcases Assoc.mem_put he with he | he
  · subst he; exact ⟨hk, Region.fresh_wf hs⟩
  · exact ha.2 e he

theorem Arena.free_wf {a : Arena} (ha : Arena.wf a) (k : Nat) : Arena.wf (Arena.free a k) :=
  ⟨Assoc.rising_erase ha.1 k, fun e he => ha.2 e (Assoc.mem_erase he).1⟩

theorem Arena.writeByte_wf {a : Arena} (ha : Arena.wf a) {k o : Nat} {r : Region} (h : Arena.lookup a k = some r)
    (ho : o < r.size) (b : Byte) : Arena.wf (Arena.writeByte a k o b) := by
  have hr := ha.2 _ (Assoc.mem_of_get? h)
  unfold Arena.writeByte
  rw [h]
  refine ⟨Assoc.rising_put ha.1 k _, fun e he => ?_⟩
  rcases Assoc.mem_put he with he | he
  · subst he; exact ⟨hr.1, Region.write_wf hr.2 ho b⟩
  · exact ha.2 e he

theorem reset_memory_wf : Arena.wf State.reset.regions := ⟨.nil, by simp [State.reset]⟩

end Sys2Proof.Machine
end

