-- ==== Sys2Proof/Laws/PerInstr.lean ====
section
/-! SUPPORT. Families of facts stated instruction by instruction. `EncodeShape`: the word `encode` gives carries the
instruction's opcode in OPC, its opcode has a format, and every field that format reserves is zero (30_encoding.md R103,
R104, R109). -/

namespace Sys2Proof.Laws.EncodeShape

/-- The encoding of `i` has its opcode in OPC and zeros in the reserved fields of the opcode's format. -/
def Statement (i : Instr) : Prop :=
  opcField (encode i) = opcodeOf i ∧
    ∃ f, formatOf (opcodeOf i) = some f ∧ encode i &&& f.reservedMask = 0

/-- A layout of zero fields is the zero word. -/
theorem layout_zero : layout 0#8 0#8 0#8 0#8 0#32 0#32 = 0#96 := by decide

theorem setRegister (reg : Nat) (value : Int) : Statement (.setRegister reg value) := by
  refine ⟨by simp [encode, opcodeOf], .DI, rfl, ?_⟩
  simp [encode, reservedMask_layout, layout_and, layout_zero]

theorem add (a b d : Nat) : Statement (.add a b d) := by
  refine ⟨by simp [encode, opcodeOf], .ABD, rfl, ?_⟩
  simp [encode, reservedMask_layout, layout_and, layout_zero]

theorem sub (a b d : Nat) : Statement (.sub a b d) := by
  refine ⟨by simp [encode, opcodeOf], .ABD, rfl, ?_⟩
  simp [encode, reservedMask_layout, layout_and, layout_zero]

theorem mul (a b d : Nat) : Statement (.mul a b d) := by
  refine ⟨by simp [encode, opcodeOf], .ABD, rfl, ?_⟩
  simp [encode, reservedMask_layout, layout_and, layout_zero]

theorem div (a b d : Nat) : Statement (.div a b d) := by
  refine ⟨by simp [encode, opcodeOf], .ABD, rfl, ?_⟩
  simp [encode, reservedMask_layout, layout_and, layout_zero]

theorem mod (a b d : Nat) : Statement (.mod a b d) := by
  refine ⟨by simp [encode, opcodeOf], .ABD, rfl, ?_⟩
  simp [encode, reservedMask_layout, layout_and, layout_zero]

theorem eq (a b d : Nat) : Statement (.eq a b d) := by
  refine ⟨by simp [encode, opcodeOf], .ABD, rfl, ?_⟩
  simp [encode, reservedMask_layout, layout_and, layout_zero]

theorem neq (a b d : Nat) : Statement (.neq a b d) := by
  refine ⟨by simp [encode, opcodeOf], .ABD, rfl, ?_⟩
  simp [encode, reservedMask_layout, layout_and, layout_zero]

theorem gt (a b d : Nat) : Statement (.gt a b d) := by
  refine ⟨by simp [encode, opcodeOf], .ABD, rfl, ?_⟩
  simp [encode, reservedMask_layout, layout_and, layout_zero]

theorem lt (a b d : Nat) : Statement (.lt a b d) := by
  refine ⟨by simp [encode, opcodeOf], .ABD, rfl, ?_⟩
  simp [encode, reservedMask_layout, layout_and, layout_zero]

theorem gte (a b d : Nat) : Statement (.gte a b d) := by
  refine ⟨by simp [encode, opcodeOf], .ABD, rfl, ?_⟩
  simp [encode, reservedMask_layout, layout_and, layout_zero]

theorem lte (a b d : Nat) : Statement (.lte a b d) := by
  refine ⟨by simp [encode, opcodeOf], .ABD, rfl, ?_⟩
  simp [encode, reservedMask_layout, layout_and, layout_zero]

theorem jump (offset : Nat) : Statement (.jump offset) := by
  refine ⟨by simp [encode, opcodeOf], .I, rfl, ?_⟩
  simp [encode, reservedMask_layout, layout_and, layout_zero]

theorem jumpIfZero (reg offset : Nat) : Statement (.jumpIfZero reg offset) := by
  refine ⟨by simp [encode, opcodeOf], .AI, rfl, ?_⟩
  simp [encode, reservedMask_layout, layout_and, layout_zero]

theorem jumpIfNonZero (reg offset : Nat) : Statement (.jumpIfNonZero reg offset) := by
  refine ⟨by simp [encode, opcodeOf], .AI, rfl, ?_⟩
  simp [encode, reservedMask_layout, layout_and, layout_zero]

theorem print (reg : Nat) : Statement (.print reg) := by
  refine ⟨by simp [encode, opcodeOf], .A, rfl, ?_⟩
  simp [encode, reservedMask_layout, layout_and, layout_zero]

theorem halt : Statement .halt := by
  refine ⟨by simp [encode, opcodeOf], .N, rfl, ?_⟩
  simp [encode, reservedMask_layout, layout_and, layout_zero]

theorem allocateMemory (size : Nat) : Statement (.allocateMemory size) := by
  refine ⟨by simp [encode, opcodeOf], .I, rfl, ?_⟩
  simp [encode, reservedMask_layout, layout_and, layout_zero]

theorem freeMemory (address : Nat) : Statement (.freeMemory address) := by
  refine ⟨by simp [encode, opcodeOf], .I, rfl, ?_⟩
  simp [encode, reservedMask_layout, layout_and, layout_zero]

theorem storeToMemory (address reg offset : Nat) : Statement (.storeToMemory address reg offset) := by
  refine ⟨by simp [encode, opcodeOf], .AIJ, rfl, ?_⟩
  simp [encode, reservedMask_layout, layout_and, layout_zero]

theorem loadFromMemory (address regDest : Nat) : Statement (.loadFromMemory address regDest) := by
  refine ⟨by simp [encode, opcodeOf], .DI, rfl, ?_⟩
  simp [encode, reservedMask_layout, layout_and, layout_zero]

theorem call (offset : Nat) : Statement (.call offset) := by
  refine ⟨by simp [encode, opcodeOf], .I, rfl, ?_⟩
  simp [encode, reservedMask_layout, layout_and, layout_zero]

theorem ret : Statement .ret := by
  refine ⟨by simp [encode, opcodeOf], .N, rfl, ?_⟩
  simp [encode, reservedMask_layout, layout_and, layout_zero]

end Sys2Proof.Laws.EncodeShape
end

