-- ==== Sys2Proof/Machine/Assembly.lean ====
section
/-! DEFINITION. The assembly syntax of 30_encoding.md R111: the text of an instruction and of a program. Reading such
text is an assembler's work, which 00_scope.md leaves out. -/

namespace Sys2Proof.Machine

/-- Operands separated by commas. -/
def operandText : List String → String
  | [] => ""
  | [o] => o
  | o :: os => o ++ "," ++ operandText os

/-- `Mnemonic(operand, ...)`; without parentheses where there is no operand. -/
def instrText (mnemonic : String) (operands : List String) : String :=
  if operands.isEmpty then mnemonic else mnemonic ++ "(" ++ operandText operands ++ ")"

/-- An instruction in assembly syntax, operands in the source's order. -/
def assembly : Instr → String
  | .setRegister reg value => instrText "SetRegister" [reg.repr, value.repr]
  | .add a b d => instrText "Add" [a.repr, b.repr, d.repr]
  | .sub a b d => instrText "Sub" [a.repr, b.repr, d.repr]
  | .mul a b d => instrText "Mul" [a.repr, b.repr, d.repr]
  | .div a b d => instrText "Div" [a.repr, b.repr, d.repr]
  | .mod a b d => instrText "Mod" [a.repr, b.repr, d.repr]
  | .eq a b d => instrText "Eq" [a.repr, b.repr, d.repr]
  | .neq a b d => instrText "Neq" [a.repr, b.repr, d.repr]
  | .gt a b d => instrText "Gt" [a.repr, b.repr, d.repr]
  | .lt a b d => instrText "Lt" [a.repr, b.repr, d.repr]
  | .gte a b d => instrText "Gte" [a.repr, b.repr, d.repr]
  | .lte a b d => instrText "Lte" [a.repr, b.repr, d.repr]
  | .jump offset => instrText "Jump" [offset.repr]
  | .jumpIfZero reg offset => instrText "JumpIfZero" [reg.repr, offset.repr]
  | .jumpIfNonZero reg offset => instrText "JumpIfNonZero" [reg.repr, offset.repr]
  | .print reg => instrText "Print" [reg.repr]
  | .halt => instrText "Halt" []
  | .allocateMemory size => instrText "AllocateMemory" [size.repr]
  | .freeMemory address => instrText "FreeMemory" [address.repr]
  | .storeToMemory address reg offset => instrText "StoreToMemory" [address.repr, reg.repr, offset.repr]
  | .loadFromMemory address regDest => instrText "LoadFromMemory" [address.repr, regDest.repr]
  | .call offset => instrText "Call" [offset.repr]
  | .ret => instrText "Return" []

/-- The instructions of a program, each after a comma and a space but the first. -/
def assemblyList : List Instr → String
  | [] => ""
  | [i] => assembly i
  | i :: is => assembly i ++ ", " ++ assemblyList is

/-- A program: a bracketed, comma-separated list. -/
def programText (p : List Instr) : String := "[" ++ assemblyList p ++ "]"

end Sys2Proof.Machine
end

