-- ==== Sys2Proof/Tests/Slice0.lean ====
section
/-! SUPPORT. Tests: ill-formed terms refused, words written out from the spec decoded, one step of each instruction with
the results of 95_test_vectors.md (its vector ids in the names), and a witness for the hypotheses of each statement. -/

namespace Sys2Proof.Tests

open Sys2Proof Sys2Proof.Machine Sys2Proof.Claims

/-! ## WellFormed refuses ill-formed terms: a register of 256, an immediate of 2^32, an int32 out of range -/

theorem test_wf_setRegister_reg : WellFormed (.setRegister 256 0) = false := by decide
theorem test_wf_setRegister_value :
    WellFormed (.setRegister 0 (2 ^ 31)) = false ∧ WellFormed (.setRegister 0 (-2 ^ 31 - 1)) = false := by decide
theorem test_wf_add : WellFormed (.add 256 0 0) = false ∧ WellFormed (.add 0 256 0) = false ∧
    WellFormed (.add 0 0 256) = false := by decide
theorem test_wf_sub : WellFormed (.sub 256 0 0) = false ∧ WellFormed (.sub 0 256 0) = false ∧
    WellFormed (.sub 0 0 256) = false := by decide
theorem test_wf_mul : WellFormed (.mul 256 0 0) = false ∧ WellFormed (.mul 0 256 0) = false ∧
    WellFormed (.mul 0 0 256) = false := by decide
theorem test_wf_div : WellFormed (.div 256 0 0) = false ∧ WellFormed (.div 0 256 0) = false ∧
    WellFormed (.div 0 0 256) = false := by decide
theorem test_wf_mod : WellFormed (.mod 256 0 0) = false ∧ WellFormed (.mod 0 256 0) = false ∧
    WellFormed (.mod 0 0 256) = false := by decide
theorem test_wf_eq : WellFormed (.eq 256 0 0) = false ∧ WellFormed (.eq 0 256 0) = false ∧
    WellFormed (.eq 0 0 256) = false := by decide
theorem test_wf_neq : WellFormed (.neq 256 0 0) = false ∧ WellFormed (.neq 0 256 0) = false ∧
    WellFormed (.neq 0 0 256) = false := by decide
theorem test_wf_gt : WellFormed (.gt 256 0 0) = false ∧ WellFormed (.gt 0 256 0) = false ∧
    WellFormed (.gt 0 0 256) = false := by decide
theorem test_wf_lt : WellFormed (.lt 256 0 0) = false ∧ WellFormed (.lt 0 256 0) = false ∧
    WellFormed (.lt 0 0 256) = false := by decide
theorem test_wf_gte : WellFormed (.gte 256 0 0) = false ∧ WellFormed (.gte 0 256 0) = false ∧
    WellFormed (.gte 0 0 256) = false := by decide
theorem test_wf_lte : WellFormed (.lte 256 0 0) = false ∧ WellFormed (.lte 0 256 0) = false ∧
    WellFormed (.lte 0 0 256) = false := by decide
theorem test_wf_jump : WellFormed (.jump (2 ^ 32)) = false := by decide
theorem test_wf_jumpIfZero :
    WellFormed (.jumpIfZero 256 0) = false ∧ WellFormed (.jumpIfZero 0 (2 ^ 32)) = false := by decide
theorem test_wf_jumpIfNonZero :
    WellFormed (.jumpIfNonZero 256 0) = false ∧ WellFormed (.jumpIfNonZero 0 (2 ^ 32)) = false := by decide
theorem test_wf_print : WellFormed (.print 256) = false := by decide
theorem test_wf_allocateMemory : WellFormed (.allocateMemory (2 ^ 32)) = false := by decide
theorem test_wf_freeMemory : WellFormed (.freeMemory (2 ^ 32)) = false := by decide
theorem test_wf_storeToMemory : WellFormed (.storeToMemory (2 ^ 32) 0 0) = false ∧
    WellFormed (.storeToMemory 0 256 0) = false ∧ WellFormed (.storeToMemory 0 0 (2 ^ 32)) = false := by decide
theorem test_wf_loadFromMemory :
    WellFormed (.loadFromMemory (2 ^ 32) 0) = false ∧ WellFormed (.loadFromMemory 0 256) = false := by decide
theorem test_wf_call : WellFormed (.call (2 ^ 32)) = false := by decide
theorem test_wf_ret_halt : WellFormed .ret = true ∧ WellFormed .halt = true := by decide

/-! ## Decoding: the words of the examples of 41_register.md to 47_call_return.md -/

theorem test_decode_setRegister : decode 0x010000000000002A00000000 = .ok (.setRegister 0 42) ∧
    decode 0x01000003FFFFFFFF00000000 = .ok (.setRegister 3 (-1)) := by decide
theorem test_decode_add : decode 0x020001020000000000000000 = .ok (.add 0 1 2) := by decide
theorem test_decode_sub : decode 0x030001000000000000000000 = .ok (.sub 0 1 0) := by decide
theorem test_decode_mul : decode 0x040203040000000000000000 = .ok (.mul 2 3 4) := by decide
theorem test_decode_div : decode 0x050001020000000000000000 = .ok (.div 0 1 2) := by decide
theorem test_decode_mod : decode 0x060001020000000000000000 = .ok (.mod 0 1 2) := by decide
theorem test_decode_eq : decode 0x070001020000000000000000 = .ok (.eq 0 1 2) := by decide
theorem test_decode_neq : decode 0x080001020000000000000000 = .ok (.neq 0 1 2) := by decide
theorem test_decode_gt : decode 0x090001020000000000000000 = .ok (.gt 0 1 2) := by decide
theorem test_decode_lt : decode 0x0A0001020000000000000000 = .ok (.lt 0 1 2) := by decide
theorem test_decode_gte : decode 0x0B0001020000000000000000 = .ok (.gte 0 1 2) := by decide
theorem test_decode_lte : decode 0x0C0001020000000000000000 = .ok (.lte 0 1 2) := by decide
theorem test_decode_jump : decode 0x0D0000000000000100000000 = .ok (.jump 1) := by decide
theorem test_decode_jumpIfZero : decode 0x0E0000000000000100000000 = .ok (.jumpIfZero 0 1) := by decide
theorem test_decode_jumpIfNonZero : decode 0x0F0300000000000200000000 = .ok (.jumpIfNonZero 3 2) := by decide
theorem test_decode_print : decode 0x100100000000000000000000 = .ok (.print 1) := by decide
theorem test_decode_halt : decode 0x110000000000000000000000 = .ok .halt := by decide
theorem test_decode_allocateMemory : decode 0x120000000000000500000000 = .ok (.allocateMemory 5) := by decide
theorem test_decode_freeMemory : decode 0x130000000000000000000000 = .ok (.freeMemory 0) := by decide
theorem test_decode_storeToMemory : decode 0x140000000000000400000001 = .ok (.storeToMemory 4 0 1) ∧
    decode 0x14070000FFFFFFFFFFFFFFFE = .ok (.storeToMemory 0xFFFFFFFF 7 0xFFFFFFFE) := by decide
theorem test_decode_loadFromMemory : decode 0x150000010000000000000000 = .ok (.loadFromMemory 0 1) := by decide
theorem test_decode_call : decode 0x160000000000000200000000 = .ok (.call 2) := by decide
theorem test_decode_ret : decode 0x170000000000000000000000 = .ok .ret := by decide

/-- E1 to E10: the illegal words of 95_test_vectors.md section 2.1. -/
theorem test_decode_illegal :
    decode 0 = .error (.unassignedOpcode 0) ∧
    decode 0x180000000000000000000000 = .error (.unassignedOpcode 0x18) ∧
    decode 0xFF0000000000000000000000 = .error (.unassignedOpcode 0xFF) ∧
    decode 0x110000000000000000000001 = .error (.reservedField 0x11) ∧
    decode 0x170000010000000000000000 = .error (.reservedField 0x17) ∧
    decode 0x010100000000000500000000 = .error (.reservedField 0x01) ∧
    decode 0x020000000000000100000000 = .error (.reservedField 0x02) ∧
    decode 0x0D0000000000000300000007 = .error (.reservedField 0x0D) ∧
    decode 0x100301000000000000000000 = .error (.reservedField 0x10) ∧
    decode 0x140001000000000400000000 = .error (.reservedField 0x14) := by decide

theorem test_decodeTableWord :
    decodeTableWord 96 0x14070000FFFFFFFFFFFFFFFE = some (.storeToMemory 0xFFFFFFFF 7 0xFFFFFFFE) ∧
    decodeTableWord 96 0 = none := by decide

theorem test_decodeBytes :
    decodeBytes [0x01, 0, 0, 3, 0xFF, 0xFF, 0xFF, 0xFF, 0, 0, 0, 0, 7] = .ok (.setRegister 3 (-1), [7]) ∧
    decodeBytes [0x11, 0, 0] = .error .truncated := by decide

/-- The examples of 30_encoding.md R111. -/
theorem test_assembly :
    programText [.setRegister 0 42, .setRegister 1 58, .add 0 1 2, .halt] =
      "[SetRegister(0,42), SetRegister(1,58), Add(0,1,2), Halt]" ∧
    assembly (.jumpIfZero 0 2) = "JumpIfZero(0,2)" ∧ assembly (.setRegister 5 (-7)) = "SetRegister(5,-7)" ∧
    assembly .ret = "Return" := by decide

/-! ## One step of each instruction. `at0` is a post-fetch state of index 0 in a program of length 4 -/

def at0 (x0 x1 : Int) : State :=
  { State.reset with pc := 1, progLen := 4, x := #v[wrap32 x0, wrap32 x1, 0, 0, wrap32 (-9), 0, 0, 0] }

/-- `s` with one live region at 0 of the given bytes, the cursor at its end. -/
def withRegion (s : State) (size : Nat) (cells : Memory) : State :=
  { s with regions := [(0, { size := size, cells := cells })], cursor := BitVec.ofNat 32 size }

/-- `s` at the index after `i`, with a call stack. -/
def withStack (s : State) (pc : U32) (cs : List U32) : State := { s with pc := pc, cs := cs }

def after (i : Instr) (s : State) : State :=
  match exec i s with
  | .next t => t
  | .fault _ => s
  | .refused _ => s

def answersNext (r : Result) : Bool :=
  match r with
  | .next _ => true
  | .fault _ => false
  | .refused _ => false

theorem test_setRegister_G3 : (after (.setRegister 3 (-2147483648)) (at0 0 0)).reg 3 = 0x80000000 ∧
    (after (.setRegister 3 (-2147483648)) (at0 0 0)).out = [.trace 0 0x01 (.move 3 (-2147483648))] := by decide
theorem test_setRegister_V1 :
    after (.setRegister 8 5) (at0 0 0) = { at0 0 0 with out := [.diag 0 (.invalidRegister 8)] } := by decide
theorem test_add_A2 : s32 ((after (.add 0 1 2) (at0 2147483647 1)).reg 2) = -2147483648 ∧
    (after (.add 0 1 2) (at0 2147483647 1)).out = [.trace 0 0x02 (.alu 0 1 2 (-2147483648))] := by decide
theorem test_add_V5 : after (.add 0 1 10) (at0 0 0) = { at0 0 0 with out := [.diag 0 (.invalidRegister 10)] } := by decide
theorem test_sub_A6 : s32 ((after (.sub 0 1 2) (at0 3 5)).reg 2) = -2 := by decide
theorem test_sub_A7 : s32 ((after (.sub 0 1 2) (at0 (-2147483648) 1)).reg 2) = 2147483647 := by decide
theorem test_mul_A15 : s32 ((after (.mul 0 1 2) (at0 46341 46341)).reg 2) = -2147479015 := by decide
theorem test_mul_S4 : s32 ((after (.mul 1 1 0) (at0 0 (-3))).reg 0) = 9 ∧
    s32 ((after (.mul 1 1 0) (at0 0 (-3))).reg 1) = -3 := by decide
theorem test_div_A17 : s32 ((after (.div 0 1 2) (at0 (-7) 2)).reg 2) = -3 := by decide
theorem test_div_A25 : (after (.div 0 1 2) (at0 (-2147483648) (-1))).st = .faulted ∧
    (after (.div 0 1 2) (at0 (-2147483648) (-1))).faultCause = 0x11 ∧
    (after (.div 0 1 2) (at0 (-2147483648) (-1))).faultPc = 0 ∧
    (after (.div 0 1 2) (at0 (-2147483648) (-1))).pc = 1 := by decide
theorem test_mod_A29 : s32 ((after (.mod 0 1 2) (at0 (-7) 2)).reg 2) = -1 := by decide
theorem test_mod_A37 : (after (.mod 0 1 2) (at0 5 0)).faultCause = 0x10 ∧
    (after (.mod 0 1 2) (at0 5 0)).out = [.fault 0 .divByZero] := by decide
theorem test_eq_K2 : (after (.eq 0 1 2) (at0 (-2147483648) 2147483647)).reg 2 = 0 := by decide
theorem test_eq_K1 : (after (.eq 0 1 2) (at0 (-5) (-5))).reg 2 = 1 := by decide
theorem test_neq_K4 : (after (.neq 0 1 2) (at0 3 4)).reg 2 = 1 := by decide
theorem test_neq_K5 : (after (.neq 0 1 4) (at0 7 7)).reg 4 = 0 := by decide
theorem test_gt_K6 : (after (.gt 0 1 4) (at0 (-1) 1)).reg 4 = 0 := by decide
theorem test_gt_K8 : (after (.gt 0 1 2) (at0 2147483647 (-2147483648))).reg 2 = 1 := by decide
theorem test_lt_K11 : (after (.lt 0 1 2) (at0 (-2147483648) 2147483647)).reg 2 = 1 := by decide
theorem test_lt_K12 : (after (.lt 0 1 4) (at0 4 4)).reg 4 = 0 := by decide
theorem test_gte_K13 : (after (.gte 0 1 2) (at0 (-2147483648) (-2147483648))).reg 2 = 1 := by decide
theorem test_gte_K14 : (after (.gte 0 1 4) (at0 (-1) 0)).reg 4 = 0 := by decide
theorem test_lte_K16 : (after (.lte 0 1 4) (at0 0 (-1))).reg 4 = 0 := by decide
theorem test_lte_K18 : (after (.lte 0 1 2) (at0 (-2147483648) 0)).reg 2 = 1 := by decide
theorem test_jump_B2 : (after (.jump 2) (at0 0 0)).pc = 3 ∧
    (after (.jump 2) (at0 0 0)).out = [.trace 0 0x0D (.branch true 3)] := by decide
theorem test_jump_B3 : after (.jump 3) (at0 0 0) = { at0 0 0 with out := [.diag 0 (.invalidJumpTarget 4)] } := by decide
theorem test_jumpIfZero_B6 : (after (.jumpIfZero 0 1) (at0 0 0)).pc = 2 := by decide
theorem test_jumpIfZero_B8 :
    after (.jumpIfZero 0 9) (at0 5 0) = { at0 5 0 with out := [.trace 0 0x0E (.branch false 1)] } := by decide
theorem test_jumpIfNonZero_B13 : (after (.jumpIfNonZero 1 2) (at0 0 (-2147483648))).pc = 3 := by decide
theorem test_jumpIfNonZero_B15 : after (.jumpIfNonZero 1 4294967295) (at0 0 0) =
    { at0 0 0 with out := [.trace 0 0x0F (.branch false 1)] } := by decide
theorem test_print_O1 : after (.print 0) (at0 (-1) 0) = { at0 (-1) 0 with out := [.print 0 (-1)] } := by decide
theorem test_print_V8 : (after (.print 8) (at0 0 0)).out = [.diag 0 (.invalidRegister 8)] := by decide
theorem test_halt_O3 : after .halt (at0 0 0) =
    { at0 0 0 with st := .halted, out := [.trace 0 0x11 .empty] } := by decide
theorem test_allocateMemory_M4 :
    (after (.allocateMemory 2) (withRegion (at0 0 0) 3 [(0, 1), (1, 2), (2, 3)])).regions =
      [(0, { size := 3, cells := [(0, 1), (1, 2), (2, 3)] }), (3, { size := 2, cells := [] })] ∧
    (after (.allocateMemory 2) (withRegion (at0 0 0) 3 [(0, 1), (1, 2), (2, 3)])).cursor = 5 := by decide
theorem test_allocateMemory_M3 : (after (.allocateMemory 3) (withRegion (at0 0 0) 0 [])).regions =
    [(0, { size := 3, cells := [] })] := by decide
theorem test_freeMemory_M5 : (after (.freeMemory 0) (withRegion (at0 0 0) 3 [(0, 1)])).regions = [] ∧
    (after (.freeMemory 0) (withRegion (at0 0 0) 3 [(0, 1)])).cursor = 3 := by decide
theorem test_freeMemory_M6 :
    (after (.freeMemory 1) (withRegion (at0 0 0) 3 [(0, 1)])).out = [.diag 0 (.regionNotFound 1)] := by decide
theorem test_storeToMemory_M9 : (after (.storeToMemory 0 1 2) (withRegion (at0 0 300) 3 [])).regions =
      [(0, { size := 3, cells := [(2, 44)] })] ∧
    (after (.storeToMemory 0 1 2) (withRegion (at0 0 300) 3 [])).out = [.trace 0 0x14 (.store 0 2 44)] := by decide
theorem test_storeToMemory_M10 : (after (.storeToMemory 0 1 3) (withRegion (at0 0 300) 3 [])).out =
    [.diag 0 (.offsetOutOfBounds 0 3)] := by decide
theorem test_loadFromMemory_M15 :
    s32 ((after (.loadFromMemory 0 4) (withRegion (at0 0 0) 2 [(0, 255), (1, 7)])).reg 4) = 255 := by decide
theorem test_loadFromMemory_M17 : after (.loadFromMemory 0 4) (withRegion (at0 0 0) 0 []) =
    { withRegion (at0 0 0) 0 [] with out := [.diag 0 (.offsetOutOfBounds 0 0)] } := by decide
theorem test_call_L6 : (after (.call 4294967295) (at0 0 0)).pc = 0xFFFFFFFF ∧
    (after (.call 4294967295) (at0 0 0)).cs = [1] ∧
    (after (.call 4294967295) (at0 0 0)).out = [.trace 0 0x16 (.call 1 4294967296)] := by decide
theorem test_call_L13 :
    let s := { withStack (at0 0 0) 3 [1, 2] with config := { Config.standard with callDepth := 2 } }
    after (.call 0) s = { s with
      st := .faulted, faultCause := 0x32, faultPc := 2, out := [.fault 2 .callStackOverflow] } := by decide
theorem test_ret_L10 : (after .ret (withStack (at0 0 0) 4 [1, 2])).pc = 2 ∧
    (after .ret (withStack (at0 0 0) 4 [1, 2])).cs = [1] ∧
    (after .ret (withStack (at0 0 0) 4 [1, 2])).out = [.trace 3 0x17 (.ret 2)] := by decide
theorem test_ret_L12 : after .ret (withStack (at0 0 0) 3 []) = withStack (at0 0 0) 3 [] := by decide

/-! ## The step -/

def stepped (s : State) : Option State :=
  match step s with
  | .next t => some t
  | .fault _ => none
  | .refused _ => none

def refusal (s : State) : Option Refusal :=
  match step s with
  | .next _ => none
  | .fault _ => none
  | .refused r => some r

/-- Reset with one word placed at index 0. -/
def placed (w : Nat) : State := State.reset.withFetchWord 96 w

/-- `Halt` placed where the first step after reset fetches, and run by it (W7). -/
theorem test_withFetchWord_halt : stepped (placed 0x110000000000000000000000) =
    some { placed 0x110000000000000000000000 with
      pc := 1, st := .halted, out := [.trace 0 0x11 .empty], delivered := 1 } := by decide
/-- E4: an illegal word. -/
theorem test_step_illegal : stepped (placed 0x110000000000000000000001) =
    some { placed 0x110000000000000000000001 with
      pc := 1, st := .faulted, faultCause := 0x20, out := [.fault 0 .illegalInstruction], delivered := 1 } := by decide
/-- P1: the empty program. -/
theorem test_step_empty_program : stepped State.reset = some { State.reset with st := .halted } := by decide
/-- R345, U5: with `Halt` at index 0 and index 1 never loaded there is no launch: neither the first step nor the release
of `reset` has a meaning. -/
def missingWord : State := { placed 0x110000000000000000000000 with progLen := 2 }
theorem test_launch_with_unloaded_word : refusal missingWord = some (.unloadedWord 1) ∧
    ({ missingWord with resetLine := true } : State).hostMove .releaseReset = none := by decide
/-- `withFetchWord` at an index whose lower words were never loaded: the word is run all the same. -/
theorem test_withFetchWord_beyond : (stepped (State.withFetchWord { State.reset with pc := 5 } 96
    0x110000000000000000000000)).map State.st = some .halted := by decide

/-! ## Witnesses: concrete states and operands that meet the hypotheses of each statement, one for each clause, at boundary
values. A statement not listed here has no hypothesis. -/

/-- The hypothesis of `ReportsFirstInvalid`: an invalid operand, at each place of the check order. -/
def reports (rs : List Nat) (r : Nat) : Bool := rs.find? (fun q => decide (8 ≤ q)) == some r

theorem witness_ReportsFirstInvalid : reports [8] 8 ∧ reports [255] 255 ∧ reports [8, 9, 10] 8 ∧ reports [7, 9, 10] 9 ∧
    reports [7, 7, 8] 8 := by decide

/-- Capacities of one region, one call, ten bytes. -/
def small : Config := { imemDepth := 4, callDepth := 1, arenaLimit := 10, maxRegions := some 1 }

/-- The region 0 of 10 bytes fills the arena and the table. -/
def full : State := { withRegion (at0 1 0) 10 [] with config := small }

/-- A size-0 region at the cursor. -/
def emptyRegion : State := { withRegion (at0 1 0) 0 [] with config := small }

theorem witness_DecodeOfEncodeIsTheInstruction : WellFormed (.setRegister 255 (-2 ^ 31)) = true ∧
    WellFormed (.storeToMemory (2 ^ 32 - 1) 255 (2 ^ 32 - 1)) = true ∧ WellFormed (.lte 255 255 255) = true := by decide
theorem witness_EncodeOfDecodeIsTheWord : decode 0x01000007FFFFFFFF00000000 = .ok (.setRegister 7 (-1)) := by decide
theorem witness_DecodedOperandsAreTheWordsFields :
    decode 0x0E030000FFFFFFFF00000000 = .ok (.jumpIfZero 3 4294967295) := by decide
theorem witness_WordsTravelMostSignificantByteFirst :
    decode 0x170000000000000000000000 = .ok .ret ∧ decode 0 = .error (.unassignedOpcode 0) ∧ 11 < 12 := by decide
theorem witness_CheckedRegistersAreTheMarkedPorts : WellFormed (.add 255 254 253) = true ∧
    (signalsOf (.jump 0)).readsRA = false ∧ (signalsOf (.print 0)).readsRB = false ∧
    (signalsOf (.call 0)).writesRD = false ∧ (signalsOf .halt).usesImmA = false ∧
    (signalsOf (.setRegister 0 0)).usesImmB = false := by decide
theorem witness_SetRegisterWritesTheImmediate : reports [8] 8 ∧ 7 < 8 := by decide
theorem witness_AddSubMulWrapModulo32Bits : reports [7, 7, 8] 8 ∧ 7 < 8 := by decide
theorem witness_DivTruncatesOrFaults : reports [7, 7, 8] 8 ∧ s32 ((at0 5 0).reg 1) = 0 ∧
    (s32 ((at0 (-2147483648) (-1)).reg 0) = -2 ^ 31 ∧ s32 ((at0 (-2147483648) (-1)).reg 1) = -1) ∧
    (s32 ((at0 (-2147483648) 1).reg 1) ≠ 0 ∧
      ¬ (s32 ((at0 (-2147483648) 1).reg 0) = -2 ^ 31 ∧ s32 ((at0 (-2147483648) 1).reg 1) = -1)) := by decide
theorem witness_ModTruncatesOrFaults : reports [7, 7, 8] 8 ∧ s32 ((at0 0 0).reg 1) = 0 ∧
    (s32 ((at0 (-2147483648) (-1)).reg 0) = -2 ^ 31 ∧ s32 ((at0 (-2147483648) (-1)).reg 1) = -1) ∧
    (s32 ((at0 (-2147483647) (-1)).reg 1) ≠ 0 ∧
      ¬ (s32 ((at0 (-2147483647) (-1)).reg 0) = -2 ^ 31 ∧ s32 ((at0 (-2147483647) (-1)).reg 1) = -1)) := by decide
theorem witness_QuotientAndRemainderRecompose : answersNext (exec (.div 0 1 0) (at0 (-7) 2)) ∧
    answersNext (exec (.mod 0 1 0) (at0 (-7) 2)) ∧ (after (.div 0 1 0) (at0 (-7) 2)).st ≠ .faulted ∧
    (after (.mod 0 1 0) (at0 (-7) 2)).st ≠ .faulted := by decide
theorem witness_ComparisonsWriteOneOrZero : reports [7, 8, 9] 8 ∧
    (s32 ((at0 4 4).reg 0) = s32 ((at0 4 4).reg 1) ∧ ¬ s32 ((at0 4 4).reg 0) > s32 ((at0 4 4).reg 1)) ∧
    (s32 ((at0 4 5).reg 0) ≠ s32 ((at0 4 5).reg 1) ∧ s32 ((at0 4 5).reg 0) < s32 ((at0 4 5).reg 1)) := by decide
/-- The last valid target and the first invalid one. -/
theorem witness_JumpGoesForwardOrReports : (at0 0 0).pc.toNat + 2 < (at0 0 0).progLen.toNat ∧
    (at0 0 0).progLen.toNat ≤ (at0 0 0).pc.toNat + 3 := by decide
theorem witness_ConditionalBranches : reports [8] 8 ∧ s32 ((at0 0 1).reg 0) = 0 ∧ s32 ((at0 0 1).reg 1) ≠ 0 ∧
    (at0 0 1).pc.toNat + 2 < (at0 0 1).progLen.toNat ∧ (at0 0 1).progLen.toNat ≤ (at0 0 1).pc.toNat + 3 := by decide
theorem witness_PrintEmitsTheValue : reports [8] 8 ∧ 7 < 8 := by decide
/-- ARENA_EXHAUSTED one byte past the limit; REGION_TABLE_FULL with room left; success at the limit, with room and by
replacement. -/
theorem witness_AllocateMemoryMakesAZeroRegion :
    full.config.arenaLimit.toNat < full.cursor.toNat + 1 ∧
    (full.cursor.toNat + 0 ≤ full.config.arenaLimit.toNat ∧ Arena.lookup full.regions full.cursor.toNat = none ∧
      full.config.maxRegions = some full.regions.length) ∧
    ((0 : U32).toNat + 10 ≤ full.config.arenaLimit.toNat ∧ ([] : Arena).length < 1) ∧
    (emptyRegion.cursor.toNat + 10 ≤ emptyRegion.config.arenaLimit.toNat ∧
      Arena.lookup emptyRegion.regions emptyRegion.cursor.toNat ≠ none) := by decide
theorem witness_RoomForRegion : RoomForRegion { at0 0 0 with config := small } ∧ RoomForRegion (at0 0 0) := by
  constructor <;> simp [RoomForRegion, at0, small, State.reset, Config.standard]
theorem witness_AllocationReplacesASizeZeroRegion : emptyRegion.ArenaInv ∧
    Arena.lookup emptyRegion.regions emptyRegion.cursor.toNat = some { size := 0, cells := [] } ∧
    emptyRegion.cursor.toNat + 10 ≤ emptyRegion.config.arenaLimit.toNat := by decide
theorem witness_FreeMemoryRemovesTheRegion :
    Arena.lookup full.regions 1 = none ∧ Arena.lookup full.regions 0 ≠ none := by decide
theorem witness_StoreToMemoryWritesOneByte : reports [8] 8 ∧ Arena.lookup full.regions 1 = none ∧
    (Arena.lookup full.regions 0 = some { size := 10, cells := [] } ∧ 10 ≤ 10 ∧ 9 < 10) := by decide
theorem witness_LoadFromMemoryReadsByteZero : reports [8] 8 ∧ Arena.lookup full.regions 1 = none ∧
    Arena.lookup emptyRegion.regions 0 = some { size := 0, cells := [] } ∧
    Arena.byteAt full.regions 0 0 = some 0 := by decide
theorem witness_StoreThenLoadGivesTheByte : Arena.lookup full.regions 0 = some { size := 10, cells := [] } ∧
    (after (.storeToMemory 0 0 0) full).regions = (after (.print 8) (after (.storeToMemory 0 0 0) full)).regions := by
  decide
/-- Full and not full; the last target that fits and the first that does not. -/
theorem witness_CallPushesAndGoesForward : ({ full with cs := [1] } : State).cs.length = small.callDepth ∧
    full.cs.length < full.config.callDepth ∧ full.pc.toNat + (2 ^ 32 - 2) < 2 ^ 32 ∧
    2 ^ 32 ≤ full.pc.toNat + (2 ^ 32 - 1) := by decide
theorem witness_ReturnResumesAtTheNewestEntry :
    (withStack (at0 0 0) 3 []).cs = [] ∧ (withStack (at0 0 0) 4 [1, 2]).cs = [1] ++ [2] := by decide
theorem witness_CallThenReturnResumesAfterTheCall : full.cs.length < full.config.callDepth ∧
    (after (.setRegister 0 9) (after (.call 2) full)).cs = (after (.call 2) full).cs := by decide
theorem witness_InvalidRegisterIsReportedFirst : reports (checkedRegs (.div 0 1 9)) 9 ∧
    reports (checkedRegs (.loadFromMemory 7 8)) 8 := by decide

theorem witness_OnlyTheDestinationRegisterChanges : answersNext (exec (.add 0 1 2) (at0 0 0)) ∧
    writtenReg (.add 0 1 2) ≠ some 7 ∧ writtenReg .ret ≠ some 0 := by decide
theorem witness_OnlyTheAddressedBytesChange : answersNext (exec (.storeToMemory 0 0 9) full) ∧
    ¬ ((0 : Nat) = 0 ∧ (8 : Nat) = 9) := by decide
/-- A cursor that moves, a stack that grows, a stack that shrinks. -/
theorem witness_CursorStackAndProgramFrame :
    (after (.allocateMemory 1) (at0 0 0)).cursor ≠ (at0 0 0).cursor ∧ (after (.call 0) full).cs ≠ full.cs ∧
    (after .ret (withStack (at0 0 0) 4 [1])).cs ≠ [1] := by decide
theorem witness_ProgramCounterWriters : (after (.jump 2) (at0 0 0)).pc ≠ (at0 0 0).pc ∧
    (after .ret (withStack (at0 0 0) 4 [1])).pc ≠ 4 ∧ (.jump 2 : Instr) ≠ .ret := by decide
theorem witness_DiagnosticSkipsTheWholeEffect :
    (after (.print 8) full).out = full.out ++ [.diag 0 (.invalidRegister 8)] := by decide
theorem witness_FaultEntryIsPrecise : answersNext (exec (.call 0) { full with cs := [1] }) ∧
    answersNext (exec .halt full) := by decide
theorem witness_OneRecordPerInstruction : answersNext (exec .ret (at0 0 0)) ∧ answersNext (exec (.print 0) full) := by
  decide

theorem placed_loaded (w : Nat) : (placed w).ProgramLoaded := (firstUnloaded_eq_none_iff _).mp rfl
theorem missingWord_not_loaded : ¬ missingWord.ProgramLoaded := fun h =>
  absurd ((firstUnloaded_eq_none_iff _).mpr h) (by decide)
theorem witness_StepRunsTheDecodedInstruction : (placed 0x110000000000000000000000).canStart = true ∧
    (placed 0x110000000000000000000000).ProgramLoaded ∧
    (placed 0x110000000000000000000000).pc.toNat < (placed 0x110000000000000000000000).progLen.toNat ∧
    (placed 0x110000000000000000000000).imemRead 0 = some 0x110000000000000000000000 ∧
    decode 0x110000000000000000000000 = .ok .halt := ⟨by decide, placed_loaded _, by decide⟩
theorem witness_IllegalWordFaults : (placed 0).canStart = true ∧ (placed 0).ProgramLoaded ∧
    (placed 0).pc.toNat < (placed 0).progLen.toNat ∧ (placed 0).imemRead 0 = some 0 ∧
    decode 0 = .error (.unassignedOpcode 0) := ⟨by decide, placed_loaded _, by decide⟩
theorem witness_WhenAStepStarts : State.reset.canStart = true ∧ State.reset.ProgramLoaded ∧
    State.reset.progLen.toNat ≤ State.reset.pc.toNat :=
  ⟨by decide, (firstUnloaded_eq_none_iff _).mp rfl, by decide⟩
/-- One record waits. -/
def waiting : State := { State.reset with out := [.trace 0 0x11 .empty], st := .halted }
theorem witness_PauseAndBackPressureHoldTheState : ({ waiting with resetLine := true } : State).resetLine = true ∧
    (waiting.resetLine = false ∧ waiting.delivered < waiting.out.length) ∧
    (({ waiting with eventReady := false } : State).eventReady = false ∧ waiting.eventReady = true) ∧
    (State.reset.out.length ≤ State.reset.delivered ∧ State.reset.st = .running ∧
      ({ State.reset with runEnable := false } : State).runEnable = false) ∧
    (waiting.canStart = false ∧ (stepped waiting).isSome) := by decide
theorem witness_OnlyResetLeavesATerminalState : waiting.st ≠ .running ∧ waiting.resetLine = false ∧
    (stepped waiting).isSome ∧ ({ waiting with delivered := 1 } : State).out.length ≤ 1 ∧
    (waiting.hostMove .releaseReset).isSome ∧ HostMove.releaseReset ≠ .assertReset := by decide
theorem witness_LoadedProgramIsNeverRefused :
    (({ missingWord with resetLine := true } : State).resetLine = true ∧ ¬ missingWord.ProgramLoaded) ∧
    missingWord.canStart = true ∧ (refusal missingWord).isSome ∧ (placed 0).ProgramLoaded ∧
    ((placed 0).LaunchInv ∧ (stepped (placed 0)).isSome) ∧ ((placed 0).hostMove .releaseReset).isSome :=
  ⟨⟨rfl, missingWord_not_loaded⟩, by decide, by decide, placed_loaded 0, ⟨fun _ => placed_loaded 0, by decide⟩, by decide⟩
theorem witness_AtMostOneRecordPerStep : (placed 0).resetLine = false ∧ (stepped (placed 0)).isSome := by decide

/-- A state in the middle of a run: two calls open, two regions, one record waiting. -/
def midRun : State :=
  { placed 0x170000000000000000000000 with
    config := { Config.standard with callDepth := 4 }
    pc := 2, progLen := 4, cs := [1, 2], cursor := 3
    imem := [(0, 0), (1, 0), (2, 0x170000000000000000000000), (3, 0)]
    regions := [(0, { size := 3, cells := [(2, 44)] }), (3, { size := 0, cells := [] })]
    out := [.trace 0 0x16 (.call 1 1), .trace 1 0x16 (.call 2 2)], delivered := 2 }
theorem witness_ResetMeetsTheInvariants : midRun.ProgramInv := by decide
theorem witness_ResetValues : 7 < 8 := by decide
theorem witness_StepKeepsTheControlInvariant : midRun.ControlInv ∧ (stepped midRun).isSome :=
  ⟨⟨by decide, by simp [midRun], by decide⟩, by decide⟩
theorem witness_StepKeepsTheArenaInvariant : midRun.ArenaInv ∧ (stepped midRun).isSome := by decide
theorem witness_StepKeepsTheFaultRecordInvariant : State.reset.FaultInv ∧ (stepped State.reset).isSome := by
  refine ⟨?_, by decide⟩
  rw [State.FaultInv, if_neg (by decide)]
  decide
theorem witness_StepKeepsProgramAndPort : midRun.OutInv ∧ (stepped midRun).isSome := by decide
/-- CALL_DEPTH at PROG_LEN. -/
theorem witness_CallStackCannotOverflow :
    let s := { midRun with faultCause := 0x32 }
    s.ControlInv ∧ s.progLen.toNat ≤ s.config.callDepth ∧ (stepped s).isSome ∧
      (stepped s).map State.faultCause = some 0x32 :=
  ⟨⟨by decide, by simp [midRun], by decide⟩, by decide, by decide, by decide⟩
theorem witness_FreedAddressIsNeverReused :
    (midRun.ArenaInv ∧ Arena.lookup midRun.regions 0 = some { size := 3, cells := [(2, 44)] } ∧ 1 ≤ 3) ∧
    (midRun.resetLine = false ∧ 2 < midRun.cursor.toNat ∧ Arena.lookup midRun.regions 2 = none ∧
      (stepped midRun).isSome) := by decide
theorem witness_EveryRunEnds : (placed 0).canStart = true ∧ (placed 0).eventReady = true ∧ (placed 0).pc = 0 ∧
    (placed 0).cs = [] ∧ (placed 0).ProgramLoaded :=
  ⟨by decide, by decide, by decide, by decide, placed_loaded 0⟩
theorem witness_PausesAndDelaysChangeNothing : midRun.resetLine = false ∧ midRun.OutInv ∧ (stepped midRun).isSome ∧
    (stepped { State.reset with st := .halted }).isNone ∧
    refusal missingWord = some (.unloadedWord 1) := by decide

/-- Under reset. -/
def underReset : State := { midRun.applyReset with resetLine := true, config := { small with callDepth := 2 } }
theorem witness_ProgramLoadsOnlyUnderReset : midRun.resetLine = false ∧ (midRun.hostMove .assertReset).isSome ∧
    underReset.resetLine = true ∧ 3 < underReset.config.imemDepth.toNat ∧
    (4 : U32).toNat ≤ underReset.config.imemDepth.toNat := by decide
theorem witness_HostCannotWriteTheMachine : (underReset.hostMove (.loadLength 4)).isSome ∧
    HostMove.loadLength 4 ≠ .assertReset := by decide
theorem witness_StatusMapWords : State.reset.st = .running ∧ waiting.st = .halted ∧
    (after (.div 0 1 2) (at0 0 0)).st = .faulted ∧ 7 < 8 ∧
    (1 < midRun.config.callDepth ∧ midRun.cs[1]? = some 2) ∧
    (2 < midRun.config.callDepth ∧ midRun.cs.length ≤ 2) ∧ underReset.config.callDepth ≤ 2 := by decide
theorem witness_ArenaReadPort : ({ midRun with runEnable := false } : State).readable = true ∧
    Arena.lookup midRun.regions 1 = none ∧
    (Arena.lookup midRun.regions 3 = some { size := 0, cells := [] } ∧ (0 : Nat) ≤ 0) ∧
    (Arena.lookup midRun.regions 0 = some { size := 3, cells := [(2, 44)] } ∧ 2 < 3) := by decide
theorem witness_BootLoadsTheProgram : [(0 : InstrWord), 1, 2, 3].length ≤ underReset.config.imemDepth.toNat := by decide
theorem witness_EventPortDeliversInOrder : waiting.resetLine = false ∧ waiting.OutInv ∧ (stepped waiting).isSome ∧
    waiting.presentedRecord = some (.trace 0 0x11 .empty) ∧ waiting.eventReady = true ∧ waiting.recordWaiting = true ∧
    ({ waiting with eventReady := false } : State).eventReady = false := by decide

end Sys2Proof.Tests
end

section
/-! SUPPORT. What a host move can do, said once: an equation per load, and the cases of a move that is one. -/

namespace Sys2Proof.Machine

/-- R61: outside reset a load of a word is ignored. -/
@[simp] theorem hostMove_loadWord_outside_reset {s : State} (hr : s.resetLine = false) (j : Nat) (w : InstrWord) :
    s.hostMove (.loadWord j w) = some s := by
  simp [State.hostMove, hr]

/-- R61: outside reset a load of PROG_LEN is ignored. -/
@[simp] theorem hostMove_loadLength_outside_reset {s : State} (hr : s.resetLine = false) (n : U32) :
    s.hostMove (.loadLength n) = some s := by
  simp [State.hostMove, hr]

theorem hostMove_loadWord_under_reset {s : State} (hr : s.resetLine = true) {j : Nat}
    (hj : j < s.config.imemDepth.toNat) (w : InstrWord) :
    s.hostMove (.loadWord j w) = some { s with imem := Assoc.put s.imem j w } := by
  simp [State.hostMove, hr, hj]

theorem hostMove_loadLength_under_reset {s : State} (hr : s.resetLine = true) {n : U32}
    (hn : n.toNat ≤ s.config.imemDepth.toNat) :
    s.hostMove (.loadLength n) = some { s with progLen := n } := by
  simp [State.hostMove, hr, hn]

/-- Everything a host move from `s` to `t` can have done. -/
inductive HostMoveCase (s t : State) : HostMove → Prop where
  /-- The run is abandoned (R343). -/
  | assertReset (h : t = { s.applyReset with resetLine := true }) : HostMoveCase s t .assertReset
  /-- The program is launched, or `reset` was not asserted (R345). -/
  | releaseReset (hl : s.resetLine = true → s.ProgramLoaded) (h : t = { s with resetLine := false }) :
      HostMoveCase s t .releaseReset
  /-- A load outside reset (R61). -/
  | ignoredWord (hr : s.resetLine = false) (j : Nat) (w : InstrWord) (h : t = s) : HostMoveCase s t (.loadWord j w)
  /-- A load of PROG_LEN outside reset (R61). -/
  | ignoredLength (hr : s.resetLine = false) (n : U32) (h : t = s) : HostMoveCase s t (.loadLength n)
  /-- A load under reset. -/
  | loadedWord (hr : s.resetLine = true) (j : Nat) (w : InstrWord) (hj : j < s.config.imemDepth.toNat)
      (h : t = { s with imem := Assoc.put s.imem j w }) : HostMoveCase s t (.loadWord j w)
  /-- A load of PROG_LEN under reset. -/
  | loadedLength (hr : s.resetLine = true) (n : U32) (hn : n.toNat ≤ s.config.imemDepth.toNat)
      (h : t = { s with progLen := n }) : HostMoveCase s t (.loadLength n)
  | runEnable (b : Bool) (h : t = { s with runEnable := b }) : HostMoveCase s t (.setRunEnable b)
  | eventReady (b : Bool) (h : t = { s with eventReady := b }) : HostMoveCase s t (.setEventReady b)

theorem hostMove_cases {s t : State} {m : HostMove} (h : s.hostMove m = some t) : HostMoveCase s t m := by
  cases m with
  | assertReset => exact .assertReset (Option.some.inj h).symm
  | releaseReset =>
    obtain ⟨hn, ht⟩ := Option.ite_none_left_eq_some.mp h
    exact .releaseReset (fun hr => (firstUnloaded_eq_none_iff s).mp (by simpa [hr] using hn)) (Option.some.inj ht).symm
  | loadWord j w =>
    simp only [State.hostMove] at h
    split at h
    · rename_i hr
      exact .ignoredWord (by simpa using hr) j w (Option.some.inj h).symm
    · rename_i hr
      obtain ⟨hj, ht⟩ := Option.ite_none_right_eq_some.mp h
      exact .loadedWord (by simpa using hr) j w hj (Option.some.inj ht).symm
  | loadLength n =>
    simp only [State.hostMove] at h
    split at h
    · rename_i hr
      exact .ignoredLength (by simpa using hr) n (Option.some.inj h).symm
    · rename_i hr
      obtain ⟨hn, ht⟩ := Option.ite_none_right_eq_some.mp h
      exact .loadedLength (by simpa using hr) n hn (Option.some.inj ht).symm
  | setRunEnable b => exact .runEnable b (Option.some.inj h).symm
  | setEventReady b => exact .eventReady b (Option.some.inj h).symm

/-- R61: outside reset no host move, asserting `reset` included, changes the program or PROG_LEN. -/
theorem hostMove_keeps_program {s t : State} {m : HostMove} (hr : s.resetLine = false) (h : s.hostMove m = some t) :
    t.imem = s.imem ∧ t.progLen = s.progLen := by
  cases hostMove_cases h with
  | assertReset ht | releaseReset _ ht | ignoredWord _ _ _ ht | ignoredLength _ _ ht | runEnable _ ht | eventReady _ ht =>
    subst ht
    exact ⟨rfl, rfl⟩
  | loadedWord hr' | loadedLength hr' => simp [hr] at hr'

/-- R66: a host move but asserting `reset` writes at most the program, PROG_LEN and the input lines. -/
theorem hostMove_frame {s t : State} {m : HostMove} (h : s.hostMove m = some t) (hm : m ≠ .assertReset) :
    t = { s with
      imem := t.imem, progLen := t.progLen
      resetLine := t.resetLine, runEnable := t.runEnable, eventReady := t.eventReady } := by
  cases hostMove_cases h with
  | assertReset => exact absurd rfl hm
  | releaseReset _ ht | ignoredWord _ _ _ ht | ignoredLength _ _ ht | loadedWord _ _ _ _ ht | loadedLength _ _ _ ht
  | runEnable _ ht | eventReady _ ht =>
    subst ht
    rfl

end Sys2Proof.Machine
end

section
/-! PROOFS. The host's program-load port and what the host cannot write (10_state.md R61, R66). -/

namespace Sys2Proof.Machine

/-- Settles O55: outside reset the loads are ignored and no move writes the program; under reset a load is one `put`, read
back at its own index only. -/
theorem programLoadsOnlyUnderReset : Obligations.ProgramLoadsOnlyUnderReset := by
  intro s j w n
  refine ⟨fun hr => ⟨hostMove_loadWord_outside_reset hr j w, hostMove_loadLength_outside_reset hr n,
    fun _ _ => hostMove_keeps_program hr⟩, fun hr => ⟨fun hj => ?_, hostMove_loadLength_under_reset hr⟩⟩
  exact ⟨_, hostMove_loadWord_under_reset hr hj w, Assoc.get?_put_same _ _ _,
    fun _ hq => Assoc.get?_put_other _ _ hq, rfl⟩

/-- Settles O56: every listed field is read off the frame of a host move. -/
theorem hostCannotWriteTheMachine : Obligations.HostCannotWriteTheMachine := by
  intro s t m h hm
  have frame := hostMove_frame h hm
  refine ⟨?_, ?_, ?_, ?_, ?_, ?_, ?_, frame⟩ <;> rw [frame]

end Sys2Proof.Machine
end

section
/-! SUPPORT. A word as bytes (20_memory.md R81): what each byte is, and that the bytes give the word back. -/

namespace Sys2Proof

@[simp] theorem length_wordToBytes (w : InstrWord) : (wordToBytes w).length = 12 := by
  simp [wordToBytes]

theorem wordToBytes_getElem? (w : InstrWord) {k : Nat} (hk : k < 12) :
    (wordToBytes w)[k]? = some (w.extractLsb' (88 - 8 * k) 8) := by
  simp [wordToBytes, hk]

/-- A slice of `len` bits from `lo` up is the number the claims call `bits w hi lo`. -/
theorem toNat_extractLsb'_eq_bits (w : InstrWord) {hi lo len : Nat} (h : hi + 1 - lo = len) :
    (w.extractLsb' lo len).toNat = Claims.bits w hi lo := by
  rw [BitVec.extractLsb'_toNat, Nat.shiftRight_eq_div_pow, Claims.bits, h]

/-- Appending the byte at `n` below the bits from `n + 8` up gives the bits from `n` up. -/
theorem shiftLeft_or_extract_byte (w : InstrWord) (n : Nat) :
    ((w >>> (n + 8)) <<< 8) ||| (w.extractLsb' n 8).setWidth 96 = w >>> n := by
  ext i hi
  by_cases h : i < 8
  · simp [h]
  · have hn : n + 8 + (i - 8) = n + i := by omega
    simp [h, hn]

/-- The first `n` bytes of a word hold its topmost `8 * n` bits. -/
theorem wordOfBytes_take_wordToBytes (w : InstrWord) {n : Nat} (hn : n ≤ 12) :
    wordOfBytes ((wordToBytes w).take n) = w >>> (96 - 8 * n) := by
  induction n with
  | zero => exact (BitVec.ushiftRight_eq_zero (x := w) (Nat.le_refl 96)).symm
  | succ n ih =>
    have hrest : 96 - 8 * n = 88 - 8 * n + 8 := by omega
    have hlow : 96 - 8 * (n + 1) = 88 - 8 * n := by omega
    calc wordOfBytes ((wordToBytes w).take (n + 1))
        = (wordOfBytes ((wordToBytes w).take n) <<< 8) ||| (w.extractLsb' (88 - 8 * n) 8).setWidth 96 := by
          simp [wordOfBytes, List.take_add_one, wordToBytes_getElem? w (show n < 12 by omega)]
      _ = w >>> (96 - 8 * (n + 1)) := by
          rw [ih (by omega), hrest, hlow, shiftLeft_or_extract_byte]

@[simp] theorem wordOfBytes_wordToBytes (w : InstrWord) : wordOfBytes (wordToBytes w) = w := by
  simpa [List.take_of_length_le] using wordOfBytes_take_wordToBytes w (Nat.le_refl 12)

/-- The byte decoder on a word's bytes is the word decoder, and keeps what follows them. -/
theorem decodeBytes_wordToBytes_append (w : InstrWord) (rest : List Byte) :
    decodeBytes (wordToBytes w ++ rest) = (decode w).map fun i => (i, rest) := by
  have htake : (wordToBytes w ++ rest).take 12 = wordToBytes w := List.take_left' (length_wordToBytes w)
  have hdrop : (wordToBytes w ++ rest).drop 12 = rest := List.drop_left' (length_wordToBytes w)
  have hlen : ¬ (wordToBytes w ++ rest).length < 12 := by simp
  rw [decodeBytes, if_neg hlen, htake, hdrop, wordOfBytes_wordToBytes]
  cases decode w <;> rfl

end Sys2Proof
end

section
/-! PROOFS. The order in which a word's bytes travel (20_memory.md R81). -/

namespace Sys2Proof.Machine

/-- Settles O6: the bytes are the word's slices from the top, and folding them back gives the word the decoder reads. -/
theorem wordsTravelMostSignificantByteFirst : Obligations.WordsTravelMostSignificantByteFirst := by
  intro w rest
  refine ⟨length_wordToBytes w, fun k hk => ?_, fun i h => ?_, fun e h => ?_⟩
  · have hwidth : 95 - 8 * k + 1 - (88 - 8 * k) = 8 := by omega
    rw [wordToBytes_getElem? w hk, Option.map_some, toNat_extractLsb'_eq_bits w hwidth]
  · rw [decodeBytes_wordToBytes_append, h]
    rfl
  · rw [decodeBytes_wordToBytes_append, h]
    rfl

end Sys2Proof.Machine
end

section
/-! SUPPORT. The register check in front of every meaning, the record a completing effect appends, when a step can start,
and the step past the end of a program. -/

namespace Sys2Proof.Machine

/-- R136: every meaning starts with the check of its own register operands; where there are none, the check is empty. -/
theorem exec_eq_checkRegs (i : Instr) (s : State) : ∃ go, exec i s = checkRegs (checkedRegs i) s go := by
  cases i with
  | setRegister | add | sub | mul | div | mod | eq | neq | gt | lt | gte | lte | jumpIfZero | jumpIfNonZero | print
  | storeToMemory | loadFromMemory => exact ⟨_, rfl⟩
  | jump | halt | allocateMemory | freeMemory | call | ret => exact ⟨_, (checkRegs_valid (List.forall_mem_nil _) s _).symm⟩

theorem AluEffect.out_eq {op : Byte} {f : Word → Word → Except FaultCode Word} {a b d : Nat} {s t : State}
    (h : AluEffect op f a b d s t) : ∃ p, t.out = s.out ++ [.trace s.index op p] := by
  obtain ⟨-, -, -, v, -, rfl⟩ := h
  exact ⟨.alu a b d (s32 v), by simp⟩

theorem JumpEffect.out_eq {op : Byte} {offset : Nat} {s t : State} (h : JumpEffect op offset s t) :
    ∃ p, t.out = s.out ++ [.trace s.index op p] := by
  obtain ⟨-, rfl⟩ := h
  exact ⟨_, rfl⟩

theorem CondJumpEffect.out_eq {op : Byte} {taken : Prop} {reg offset : Nat} {s t : State}
    (h : CondJumpEffect op taken reg offset s t) : ∃ p, t.out = s.out ++ [.trace s.index op p] := by
  obtain ⟨-, ⟨-, hj⟩ | ⟨-, rfl⟩⟩ := h
  · exact hj.out_eq
  · exact ⟨_, rfl⟩

/-- R139: an effect appends one record, PRINT for Print and TRACE with the instruction's opcode for the others. -/
theorem Effect.out_eq {i : Instr} {s t : State} (h : Effect i s t) :
    (∃ reg, i = .print reg ∧ t.out = s.out ++ [.print s.index (s32 (s.reg reg))]) ∨
      ((∀ reg, i ≠ .print reg) ∧ ∃ p, t.out = s.out ++ [.trace s.index (opcodeOf i) p]) := by
  cases i with
  | print reg =>
    obtain ⟨-, rfl⟩ := h
    exact .inl ⟨reg, rfl, rfl⟩
  | add | sub | mul | div | mod | eq | neq | gt | lt | gte | lte =>
    unfold Effect at h
    exact .inr ⟨nofun, h.out_eq⟩
  | jump => exact .inr ⟨nofun, JumpEffect.out_eq h⟩
  | jumpIfZero | jumpIfNonZero => exact .inr ⟨nofun, CondJumpEffect.out_eq h⟩
  | setRegister reg value =>
    obtain ⟨-, rfl⟩ := h
    exact .inr ⟨nofun, .move reg value, by simp [opcodeOf]⟩
  | loadFromMemory address regDest =>
    obtain ⟨-, r, -, -, rfl⟩ := h
    exact .inr ⟨nofun, .load address regDest (s32 (zext32 (Memory.read r.cells 0))), by simp [opcodeOf]⟩
  | halt =>
    subst h
    exact .inr ⟨nofun, _, rfl⟩
  | allocateMemory | storeToMemory =>
    obtain ⟨-, -, rfl⟩ := h
    exact .inr ⟨nofun, _, rfl⟩
  | freeMemory | call =>
    obtain ⟨-, rfl⟩ := h
    exact .inr ⟨nofun, _, rfl⟩
  | ret =>
    obtain ⟨v, -, rfl⟩ := h
    exact .inr ⟨nofun, _, rfl⟩

/-- No effect appends a DIAG record. -/
theorem Effect.out_ne_diag {i : Instr} {s t : State} (h : Effect i s t) (j : U32) (d : Diag) :
    t.out ≠ s.out ++ [.diag j d] := by
  obtain ⟨reg, -, ho⟩ | ⟨-, p, ho⟩ := h.out_eq <;> simp [ho]

/-- R130, the start condition. -/
theorem canStart_iff (s : State) : s.canStart = true ↔
    s.st = .running ∧ s.runEnable = true ∧ s.out.length ≤ s.delivered ∧ s.resetLine = false := by
  simp [State.canStart, State.recordWaiting, and_assoc]

theorem runProgram_past_end {s : State} (hp : s.progLen.toNat ≤ s.pc.toNat) : runProgram s = .next s.halt :=
  if_pos hp

end Sys2Proof.Machine
end

section
/-! PROOFS. Dispatch (40_dispatch.md): the register checks R136, diagnostics R138, the start of a step R130. -/

namespace Sys2Proof.Machine

/-- Settles O28: the check in front of the meaning answers before anything else of it is reached. -/
theorem invalidRegisterIsReportedFirst : Obligations.InvalidRegisterIsReportedFirst := by
  intro i s r hr
  obtain ⟨go, hgo⟩ := exec_eq_checkRegs i s
  rw [hgo]
  exact checkRegs_invalid ((firstInvalid_eq_find? _).trans hr) s go

/-- Settles O34: of what an execution can do, only a diagnostic ends Out with a DIAG record. -/
theorem diagnosticSkipsTheWholeEffect : Obligations.DiagnosticSkipsTheWholeEffect := by
  intro i s t j d h ho
  cases exec_cases h with
  | diag d' ht =>
    obtain ⟨-, rfl⟩ : s.index = j ∧ d' = d := by simpa [ht] using ho
    exact ht
  | raise c ht => simp [ht] at ho
  | stray _ _ ht => simp [ht] at ho
  | effect he => exact absurd ho (he.out_ne_diag j d)

/-- Settles O40: a step that can start in a loaded program runs it, and past its end that is the halt. -/
theorem whenAStepStarts : Obligations.WhenAStepStarts := by
  refine ⟨canStart_iff, fun s hc hl hp => ?_⟩
  rw [step_of_canStart hc, runStep_of_loaded hl, runProgram_past_end hp]
  rfl

end Sys2Proof.Machine
end

section
/-! SUPPORT. Decoding a laid-out word by its opcode's format, the register write that ends with a TRACE
record, and SetRegister's completion. -/

namespace Sys2Proof.Machine

open Claims

/-- R105: a laid-out word of an assigned opcode is legal exactly when the fields its format reserves are zero. -/
theorem decode_layout_of_format {opc ra rb rd : Byte} {ia ib : U32} {f : Format} {i : Instr}
    (hf : formatOf opc = some f) (hi : instrOfFields opc ra rb rd ia ib = some i) :
    decode (layout opc ra rb rd ia ib) =
      if reservedClear f ra rb rd ia ib then .ok i else .error (.reservedField opc) := by
  simp [decodeFields, hf, hi]

/-- The encoding of an opcode of format DI. -/
theorem encodedDI_of_format {opc : Byte} {mk : Byte → U32 → Instr} (hf : formatOf opc = some .DI)
    (hi : ∀ ra rb rd ia ib, instrOfFields opc ra rb rd ia ib = some (mk rd ia)) : EncodedDI opc mk := by
  intro ra rb rd ia ib
  rw [decode_layout_of_format hf (hi ra rb rd ia ib)]
  simp [reservedClear, and_assoc]

/-- R32: writing a valid register and tracing it changes that register and Out, and nothing else. -/
theorem writesReg_setReg_trace (s : State) {d : Nat} (hd : d < 8) (v : Word) (op : Byte) (p : Payload) :
    WritesReg s ((s.setReg d v).trace op p) d v (.trace (s.pc - 1) op p) := by
  refine ⟨?_, fun r _ hr => ?_, ?_⟩
  · rw [State.trace_reg, State.reg_setReg_same s v hd]
  · rw [State.trace_reg, State.reg_setReg_other s v hr]
  · rw [State.setReg, dif_pos hd]
    rfl

/-- A SetRegister whose index names a register completes (R160). -/
theorem exec_setRegister_of_valid (s : State) {reg : Nat} (hreg : reg < 8) (value : Int) :
    exec (.setRegister reg value) s = .next ((s.setReg reg (wrap32 value)).trace 0x01 (.move reg value)) :=
  checkRegs_valid (List.forall_mem_singleton.mpr hreg) s _

end Sys2Proof.Machine
end

section
/-! PROOFS. Register move (41_register.md R160). -/

namespace Sys2Proof.Machine

/-- Settles O9: format DI, the register check in front of every meaning, and one register write. -/
theorem setRegisterWritesTheImmediate : Obligations.SetRegisterWritesTheImmediate := by
  refine ⟨encodedDI_of_format rfl fun _ _ _ _ _ => rfl, fun s reg value => ⟨?_, fun hreg => ?_⟩⟩
  · exact invalidRegisterIsReportedFirst (.setRegister reg value) s
  · exact ⟨_, exec_setRegister_of_valid s hreg value, writesReg_setReg_trace s hreg _ _ _⟩

end Sys2Proof.Machine
end

section
/-! SUPPORT. Instructions of format ABD: their encoding, and what `execABD` answers on valid registers when its
operation gives a value and when it faults. -/

namespace Sys2Proof.Machine

open Claims

/-- The encoding of an opcode of format ABD. -/
theorem encodedABD_of_format {opc : Byte} {mk : Nat → Nat → Nat → Instr} (hf : formatOf opc = some .ABD)
    (hi : ∀ ra rb rd ia ib, instrOfFields opc ra rb rd ia ib = some (mk ra.toNat rb.toNat rd.toNat)) :
    EncodedABD opc mk := by
  intro ra rb rd ia ib
  rw [decode_layout_of_format hf (hi ra rb rd ia ib)]
  simp [reservedClear]

/-- R310: the claims' state after a fault is the one the model enters. -/
theorem raise_eq_afterFault (s : State) (c : FaultCode) : s.raise c = afterFault s c c.code := rfl

section valid
variable {i : Instr} {op : Byte} {f : Word → Word → Except FaultCode Word} {a b d : Nat} {s : State}

/-- The operation's fault is entered, no register written (R137). -/
theorem execABD_of_error (ha : a < 8) (hb : b < 8) (hd : d < 8) {c : FaultCode}
    (hf : f (s.reg a) (s.reg b) = .error c) : execABD op f a b d s = .next (afterFault s c c.code) := by
  rw [execABD, checkRegs_valid (by simp [ha, hb, hd]), hf, ← raise_eq_afterFault]

/-- The operation's value is written to regDest. -/
theorem aluWrites_of_ok (hi : exec i s = execABD op f a b d s) (ha : a < 8) (hb : b < 8) (hd : d < 8) {v : Word}
    (hf : f (s.reg a) (s.reg b) = .ok v) : AluWrites i op a b d s v := by
  refine ⟨(s.setReg d v).trace op (.alu a b d (s32 v)), ?_, writesReg_setReg_trace s hd v _ _⟩
  rw [hi, execABD, checkRegs_valid (by simp [ha, hb, hd]), hf]

end valid

end Sys2Proof.Machine
end

section
/-! SUPPORT. Div and Mod: the outcomes of the fatal checks, and that every other quotient and remainder is an int32. -/

namespace Sys2Proof.Machine

open Claims

theorem s32_range (p : Word) : -2 ^ 31 ≤ s32 p ∧ s32 p < 2 ^ 31 := ⟨BitVec.le_toInt p, BitVec.toInt_lt⟩

section divCheck
variable {f : Int → Int → Int} {p q : Word}

theorem divCheck_by_zero (hq : s32 q = 0) : divCheck f p q = .error .divByZero := if_pos hq

theorem divCheck_overflow (hp : s32 p = -2 ^ 31) (hq : s32 q = -1) : divCheck f p q = .error .divOverflow := by
  simp [divCheck, hp, hq]

theorem divCheck_ok (hq : s32 q ≠ 0) (h : ¬ (s32 p = -2 ^ 31 ∧ s32 q = -1)) :
    divCheck f p q = .ok (wrap32 (f (s32 p) (s32 q))) := by
  rw [divCheck, if_neg hq, if_neg h]

end divCheck

/-- R176, R178: an instruction that runs its operation behind `divCheck` has the two fatal cases. -/
theorem dividesFatally_of_divCheck {mk : Nat → Nat → Nat → Instr} {op : Byte} {f : Int → Int → Int}
    (hmk : ∀ a b d s, exec (mk a b d) s = execABD op (divCheck f) a b d s) : DividesFatally mk := by
  intro s a b d ha hb hd
  refine ⟨fun hzero => ?_, fun hmin hneg => ?_⟩
  · exact (hmk a b d s).trans (execABD_of_error ha hb hd (divCheck_by_zero hzero))
  · exact (hmk a b d s).trans (execABD_of_error ha hb hd (divCheck_overflow hmin hneg))

/-- R177: only -2^31 by -1 has a quotient that is no int32. A divisor of magnitude 2 or more at least halves the
dividend. -/
theorem tdiv_range {p q : Word} (hq : s32 q ≠ 0) (h : ¬ (s32 p = -2 ^ 31 ∧ s32 q = -1)) :
    -2 ^ 31 ≤ tdiv (s32 p) (s32 q) ∧ tdiv (s32 p) (s32 q) < 2 ^ 31 := by
  have hp := s32_range p
  unfold tdiv
  by_cases h1 : s32 q = 1
  · simpa [h1] using hp
  by_cases hm1 : s32 q = -1
  · rw [hm1, Int.tdiv_neg, Int.tdiv_one]
    omega
  · have hhalf : (s32 p).natAbs / (s32 q).natAbs ≤ (s32 p).natAbs / 2 := Nat.div_le_div_left (by omega) (by omega)
    have habs : ((s32 p).tdiv (s32 q)).natAbs = (s32 p).natAbs / (s32 q).natAbs := Int.natAbs_tdiv _ _
    omega

theorem trem_eq_tmod (a b : Int) : trem a b = Int.tmod a b := (Int.tmod_def a b).symm

/-- R9: the remainder is smaller in magnitude than the divisor. -/
theorem natAbs_trem_lt (a : Int) {b : Int} (hb : b ≠ 0) : (trem a b).natAbs < b.natAbs := by
  rw [trem_eq_tmod, Int.natAbs_tmod]
  exact Nat.mod_lt _ (Int.natAbs_pos.mpr hb)

/-- R179: every remainder is an int32. -/
theorem trem_range (p : Word) {q : Word} (hq : s32 q ≠ 0) :
    -2 ^ 31 ≤ trem (s32 p) (s32 q) ∧ trem (s32 p) (s32 q) < 2 ^ 31 := by
  have hlt := natAbs_trem_lt (s32 p) hq
  have hrange := s32_range q
  omega

end Sys2Proof.Machine
end

section
/-! PROOFS. Arithmetic (42_arithmetic.md): Add, Sub and Mul (R170 to R174), Div (R176, R177), Mod (R178, R179). -/

namespace Sys2Proof.Machine

/-- Settles O10: three operations that never fault, behind format ABD's register checks. -/
theorem addSubMulWrapModulo32Bits : Obligations.AddSubMulWrapModulo32Bits := by
  refine ⟨encodedABD_of_format rfl fun _ _ _ _ _ => rfl, encodedABD_of_format rfl fun _ _ _ _ _ => rfl,
    encodedABD_of_format rfl fun _ _ _ _ _ => rfl, fun s a b d => ⟨?_, ?_, ?_, fun ha hb hd => ⟨?_, ?_, ?_⟩⟩⟩
  · exact invalidRegisterIsReportedFirst (.add a b d) s
  · exact invalidRegisterIsReportedFirst (.sub a b d) s
  · exact invalidRegisterIsReportedFirst (.mul a b d) s
  · exact aluWrites_of_ok (f := fun p q => .ok (addWord p q)) rfl ha hb hd rfl
  · exact aluWrites_of_ok (f := fun p q => .ok (subWord p q)) rfl ha hb hd rfl
  · exact aluWrites_of_ok (f := fun p q => .ok (mulWord p q)) rfl ha hb hd rfl

/-- Settles O11: outside the two fatal cases the quotient is an int32, so `wrap32` keeps it. -/
theorem divTruncatesOrFaults : Obligations.DivTruncatesOrFaults := by
  refine ⟨encodedABD_of_format rfl fun _ _ _ _ _ => rfl, dividesFatally_of_divCheck fun _ _ _ _ => rfl,
    fun s a b d => ⟨invalidRegisterIsReportedFirst (.div a b d) s, fun ha hb hd hzero hover => ?_⟩⟩
  obtain ⟨hlow, hhigh⟩ := tdiv_range hzero hover
  exact ⟨_, s32_wrap32 hlow hhigh, aluWrites_of_ok rfl ha hb hd (divCheck_ok hzero hover)⟩

/-- Settles O12: the remainder is an int32 whatever the dividend, so `wrap32` keeps it. -/
theorem modTruncatesOrFaults : Obligations.ModTruncatesOrFaults := by
  refine ⟨encodedABD_of_format rfl fun _ _ _ _ _ => rfl, dividesFatally_of_divCheck fun _ _ _ _ => rfl,
    fun s a b d => ⟨invalidRegisterIsReportedFirst (.mod a b d) s, fun ha hb hd hzero hover => ?_⟩⟩
  obtain ⟨hlow, hhigh⟩ := trem_range (s.reg a) hzero
  exact ⟨_, s32_wrap32 hlow hhigh, aluWrites_of_ok rfl ha hb hd (divCheck_ok hzero hover)⟩

end Sys2Proof.Machine
end

section
/-! SUPPORT. R190's template once: what an instruction that traces a predicate's outcome through `execABD` does. -/

namespace Sys2Proof.Machine

open Claims

@[simp] theorem boolWord_true : boolWord true = 1 := rfl

@[simp] theorem boolWord_false : boolWord false = 0 := rfl

/-- R190: an instruction of format ABD that writes the `boolWord` of a predicate of its two int32 sources is the
comparison of that predicate. -/
theorem compares_of_execABD {op : Byte} {mk : Nat → Nat → Nat → Instr} {P : Int → Int → Prop} [DecidableRel P]
    (hencoded : EncodedABD op mk) (hregs : ∀ a b d, checkedRegs (mk a b d) = [a, b, d])
    (hexec : ∀ a b d s,
      exec (mk a b d) s = execABD op (fun p q => .ok (boolWord (decide (P (s32 p) (s32 q))))) a b d s) :
    Compares op mk P := by
  refine ⟨hencoded, fun s a b d => ⟨?_, fun ha hb hd => ⟨fun hP => ?_, fun hP => ?_⟩⟩⟩
  · rw [← hregs a b d]
    exact invalidRegisterIsReportedFirst (mk a b d) s
  · exact aluWrites_of_ok (hexec a b d s) ha hb hd (by simp [hP])
  · exact aluWrites_of_ok (hexec a b d s) ha hb hd (by simp [hP])

end Sys2Proof.Machine
end

section
/-! PROOFS. Comparisons (43_compare.md R190 to R196). -/

namespace Sys2Proof.Machine

/-- Settles O14: each of the six opcodes is R190's template at its own signed predicate. -/
theorem comparisonsWriteOneOrZero : Obligations.ComparisonsWriteOneOrZero := by
  refine ⟨?eq, ?neq, ?gt, ?lt, ?gte, ?lte⟩
  case eq | neq | gt | lt | gte | lte =>
    exact compares_of_execABD (encodedABD_of_format rfl fun _ _ _ _ _ => rfl) (fun _ _ _ => rfl) fun _ _ _ _ => rfl

end Sys2Proof.Machine
end

section
/-! SUPPORT. Branches: the encodings of formats I and AI, what `doJump` answers on each side of PROG_LEN, and each
conditional branch with a valid register. -/

namespace Sys2Proof.Machine

open Claims

/-- The encoding of an opcode of format I. -/
theorem encodedI_of_format {opc : Byte} {mk : Nat → Instr} (hf : formatOf opc = some .I)
    (hi : ∀ ra rb rd ia ib, instrOfFields opc ra rb rd ia ib = some (mk ia.toNat)) : EncodedI opc mk := by
  intro ra rb rd ia ib
  rw [decode_layout_of_format hf (hi ra rb rd ia ib)]
  simp [reservedClear, and_assoc]

/-- The encoding of an opcode of format AI. -/
theorem encodedAI_of_format {opc : Byte} {mk : Nat → Nat → Instr} (hf : formatOf opc = some .AI)
    (hi : ∀ ra rb rd ia ib, instrOfFields opc ra rb rd ia ib = some (mk ra.toNat ia.toNat)) : EncodedAI opc mk := by
  intro ra rb rd ia ib
  rw [decode_layout_of_format hf (hi ra rb rd ia ib)]
  simp [reservedClear, and_assoc]

/-- R301: the claims' state after a diagnostic is the one the model enters. -/
theorem diag_eq_afterDiag (s : State) (d : Diag) : s.diag d = afterDiag s d := rfl

section jump
variable {op : Byte} {offset : Nat} {s : State}

/-- R210: a target below PROG_LEN is taken. -/
theorem doJump_of_target_lt (h : s.target offset < s.progLen.toNat) :
    doJump op offset s = .next (afterBranch s op (s.target offset)) := by
  rw [doJump, if_pos ((targetInProgram_iff s _).mpr h)]
  rfl

/-- R210: any other target is reported. -/
theorem doJump_of_le_target (h : s.progLen.toNat ≤ s.target offset) :
    doJump op offset s = .next (afterDiag s (.invalidJumpTarget (s.target offset))) := by
  rw [doJump, if_neg (mt (targetInProgram_iff s _).mp h.not_gt), diag_eq_afterDiag]

/-- An instruction that runs `doJump` performs the jump. -/
theorem performsJump_of_doJump {i : Instr} (hi : exec i s = doJump op offset s) : PerformsJump i op offset s :=
  ⟨fun hlt => hi.trans (doJump_of_target_lt hlt), fun hle => hi.trans (doJump_of_le_target hle)⟩

end jump

/-- R213: an instruction that runs `notTaken` falls through. -/
theorem fallsThrough_of_notTaken {i : Instr} {op : Byte} {s : State} (hi : exec i s = notTaken op s) :
    FallsThrough i op s := hi

@[simp] theorem isZero_iff (v : Word) : isZero v = true ↔ s32 v = 0 := decide_eq_true_iff

/-- R212 past the register check. -/
theorem exec_jumpIfZero_of_valid (s : State) {reg : Nat} (hreg : reg < 8) (offset : Nat) :
    exec (.jumpIfZero reg offset) s =
      if s32 (s.reg reg) = 0 then doJump 0x0E offset s else notTaken 0x0E s := by
  simp only [← isZero_iff]
  exact checkRegs_valid (List.forall_mem_singleton.mpr hreg) s _

/-- R214 past the register check. -/
theorem exec_jumpIfNonZero_of_valid (s : State) {reg : Nat} (hreg : reg < 8) (offset : Nat) :
    exec (.jumpIfNonZero reg offset) s =
      if s32 (s.reg reg) = 0 then notTaken 0x0F s else doJump 0x0F offset s := by
  simp only [← isZero_iff]
  exact checkRegs_valid (List.forall_mem_singleton.mpr hreg) s _

end Sys2Proof.Machine
end

section
/-! PROOFS. Branches (44_branch.md): Jump (R211), JumpIfZero (R212), JumpIfNonZero (R214). -/

namespace Sys2Proof.Machine

/-- Settles O15: Jump is `doJump` behind no check at all. -/
theorem jumpGoesForwardOrReports : Obligations.JumpGoesForwardOrReports :=
  ⟨encodedI_of_format rfl fun _ _ _ _ _ => rfl, fun _ _ => performsJump_of_doJump rfl⟩

/-- Settles O16: on a valid register the zero test alone selects between `doJump` and `notTaken`, the two branches
choosing oppositely. -/
theorem conditionalBranches : Obligations.ConditionalBranches := by
  refine ⟨encodedAI_of_format rfl fun _ _ _ _ _ => rfl, encodedAI_of_format rfl fun _ _ _ _ _ => rfl,
    fun s reg offset => ⟨?_, ?_, fun hreg => ?_⟩⟩
  · exact invalidRegisterIsReportedFirst (.jumpIfZero reg offset) s
  · exact invalidRegisterIsReportedFirst (.jumpIfNonZero reg offset) s
  · have hJumpIfZero := exec_jumpIfZero_of_valid s hreg offset
    have hJumpIfNonZero := exec_jumpIfNonZero_of_valid s hreg offset
    refine ⟨fun hzero => ?_, fun hnonzero => ?_⟩
    · rw [if_pos hzero] at hJumpIfZero hJumpIfNonZero
      exact ⟨performsJump_of_doJump hJumpIfZero, fallsThrough_of_notTaken hJumpIfNonZero⟩
    · rw [if_neg hnonzero] at hJumpIfZero hJumpIfNonZero
      exact ⟨fallsThrough_of_notTaken hJumpIfZero, performsJump_of_doJump hJumpIfNonZero⟩

end Sys2Proof.Machine
end

section
/-! SUPPORT. Output and halt: the encodings of formats A and N, and what Print answers on a valid register. -/

namespace Sys2Proof.Machine

open Claims

/-- The encoding of an opcode of format A. -/
theorem encodedA_of_format {opc : Byte} {mk : Nat → Instr} (hf : formatOf opc = some .A)
    (hi : ∀ ra rb rd ia ib, instrOfFields opc ra rb rd ia ib = some (mk ra.toNat)) : EncodedA opc mk := by
  intro ra rb rd ia ib
  rw [decode_layout_of_format hf (hi ra rb rd ia ib)]
  simp [reservedClear, and_assoc]

/-- The encoding of an opcode of format N. -/
theorem encodedN_of_format {opc : Byte} {i : Instr} (hf : formatOf opc = some .N)
    (hi : ∀ ra rb rd ia ib, instrOfFields opc ra rb rd ia ib = some i) : EncodedN opc i := by
  intro ra rb rd ia ib
  rw [decode_layout_of_format hf (hi ra rb rd ia ib)]
  simp [reservedClear, and_assoc]

/-- A Print whose index names a register emits that register's int32 (R230). -/
theorem exec_print_of_valid (s : State) {reg : Nat} (hreg : reg < 8) :
    exec (.print reg) s = .next (s.emit (.print s.index (s32 (s.reg reg)))) :=
  checkRegs_valid (List.forall_mem_singleton.mpr hreg) s _

/-- Halt sets ST and traces, behind no check at all (R232). -/
theorem exec_halt (s : State) : exec .halt s = .next (s.halt.trace 0x11 .empty) := rfl

end Sys2Proof.Machine
end

section
/-! PROOFS. Output and halt (45_output_halt.md): Print (R230), Halt (R232). -/

namespace Sys2Proof.Machine

/-- Settles O17: format A, the register check in front of every meaning, and one record emitted. -/
theorem printEmitsTheValue : Obligations.PrintEmitsTheValue := by
  refine ⟨encodedA_of_format rfl fun _ _ _ _ _ => rfl, fun s reg => ⟨?_, fun hreg => ?_⟩⟩
  · exact invalidRegisterIsReportedFirst (.print reg) s
  · exact exec_print_of_valid s hreg

/-- Settles O18: format N, and the record update of `State.halt` followed by `State.trace`. -/
theorem haltEndsTheRun : Obligations.HaltEndsTheRun :=
  ⟨encodedN_of_format rfl fun _ _ _ _ _ => rfl, exec_halt⟩

end Sys2Proof.Machine
end

section
/-! SUPPORT. The arena as an instruction sees it: the bytes of a new region, the byte at a live offset, the regions' sizes
after a store, the room left in the region table, and where a region at the cursor ends. -/

namespace Sys2Proof.Machine

open Claims

/-- The byte at an offset is there exactly when the region is live and the offset lies below its size (R64, R77). -/
theorem Arena.byteAt_eq_some_iff {a : Arena} {k o : Nat} {b : Byte} :
    Arena.byteAt a k o = some b ↔ ∃ r, Arena.lookup a k = some r ∧ o < r.size ∧ Memory.read r.cells o = b := by
  unfold Arena.byteAt
  cases Arena.lookup a k <;> simp

/-- R75: every byte of a new region is 0. -/
theorem Arena.byteAt_allocate_same (a : Arena) (k : Nat) {o size : Nat} (ho : o < size) :
    Arena.byteAt (Arena.allocate a k size) k o = some 0 :=
  Arena.byteAt_eq_some_iff.mpr ⟨_, Arena.lookup_allocate_same a k size, ho, Memory.read_nil o⟩

/-- R241: allocating at a live key replaces its region. -/
theorem Arena.length_allocate_of_live {a : Arena} (ha : Arena.wf a) {k : Nat} {r : Region}
    (hl : Arena.lookup a k = some r) (size : Nat) : (Arena.allocate a k size).length = a.length :=
  Assoc.length_put_of_some ha.1 hl

/-- R38: a store leaves the size of every region. -/
theorem Arena.map_size_lookup_writeByte (a : Arena) (k o : Nat) (b : Byte) (q : Nat) :
    (Arena.lookup (Arena.writeByte a k o b) q).map Region.size = (Arena.lookup a q).map Region.size := by
  by_cases hq : q = k
  · subst hq
    cases hl : Arena.lookup a q with
    | none => rw [Arena.writeByte, hl, hl]
    | some r => rw [Arena.lookup_writeByte_same hl]; rfl
  · rw [Arena.lookup_writeByte_other a o b hq]

theorem regionsFit_iff (c : Config) (n : Nat) : c.regionsFit n = true ↔ ∀ m, c.maxRegions = some m → n ≤ m := by
  unfold Config.regionsFit
  cases c.maxRegions <;> simp

/-- R240: the region table is full for an allocation when it would need a new key and there is no room for one. -/
theorem regionTableFull_iff (s : State) :
    s.regionTableFull = true ↔ Arena.lookup s.regions s.cursor.toNat = none ∧ ¬ RoomForRegion s := by
  have hroom : s.config.regionsFit (s.regions.length + 1) = true ↔ RoomForRegion s := regionsFit_iff _ _
  simp [State.regionTableFull, ← hroom]

/-- R40: a region ends at or below the cursor, so one that starts there is empty. -/
theorem size_eq_zero_of_lookup_cursor {s : State} (hinv : s.ArenaInv) {r : Region}
    (hl : Arena.lookup s.regions s.cursor.toNat = some r) : r.size = 0 := by
  obtain ⟨-, hend, -⟩ := hinv
  have hle : s.cursor.toNat + r.size ≤ s.cursor.toNat := hend _ (Assoc.mem_of_get? hl)
  omega

/-- R7: a zero-extended byte is the byte's own number as an int32. -/
theorem s32_zext32 (b : Byte) : s32 (zext32 b) = b.toNat := by
  have hb := b.isLt
  rw [s32, BitVec.toInt_eq_toNat_of_lt (by rw [zext32_toNat]; omega), zext32_toNat]

end Sys2Proof.Machine
end

section
/-! SUPPORT. Each memory instruction's answer under each of its guards, the checks in R330's order, and the
encoding of format AIJ. -/

namespace Sys2Proof.Machine

open Claims

/-- The encoding of an opcode of format AIJ. -/
theorem encodedAIJ_of_format {opc : Byte} {mk : Nat → Nat → Nat → Instr} (hf : formatOf opc = some .AIJ)
    (hi : ∀ ra rb rd ia ib, instrOfFields opc ra rb rd ia ib = some (mk ra.toNat ia.toNat ib.toNat)) :
    EncodedAIJ opc mk := by
  intro ra rb rd ia ib
  rw [decode_layout_of_format hf (hi ra rb rd ia ib)]
  simp [reservedClear]

/-! ### AllocateMemory -/

section allocate
variable {s : State} {size : Nat}

theorem exec_allocateMemory_of_exhausted (h : s.config.arenaLimit.toNat < s.cursor.toNat + size) :
    exec (.allocateMemory size) s = .next (afterFault s .arenaExhausted 0x30) :=
  if_pos ((arenaExhausted_iff s size).mpr h)

theorem exec_allocateMemory_of_table_full (h : s.cursor.toNat + size ≤ s.config.arenaLimit.toNat)
    (hl : Arena.lookup s.regions s.cursor.toNat = none) (hroom : ¬ RoomForRegion s) :
    exec (.allocateMemory size) s = .next (afterFault s .regionTableFull 0x31) :=
  (if_neg (mt (arenaExhausted_iff s size).mp h.not_gt)).trans (if_pos ((regionTableFull_iff s).mpr ⟨hl, hroom⟩))

theorem exec_allocateMemory_of_room (h : s.cursor.toNat + size ≤ s.config.arenaLimit.toNat)
    (hroom : Arena.lookup s.regions s.cursor.toNat ≠ none ∨ RoomForRegion s) :
    exec (.allocateMemory size) s = .next (State.trace
      { s with
        regions := Arena.allocate s.regions s.cursor.toNat size
        cursor := BitVec.ofNat 32 (s.cursor.toNat + size) }
      0x12 (.alloc size s.cursor.toNat)) := by
  refine (if_neg (mt (arenaExhausted_iff s size).mp h.not_gt)).trans (if_neg fun hfull => ?_)
  obtain ⟨hl, hno⟩ := (regionTableFull_iff s).mp hfull
  exact hroom.elim (fun hlive => hlive hl) hno

end allocate

/-! ### FreeMemory -/

section free
variable {s : State} {address : Nat}

theorem exec_freeMemory_of_absent (hl : Arena.lookup s.regions address = none) :
    exec (.freeMemory address) s = .next (afterDiag s (.regionNotFound address)) := by
  simp only [exec, execFreeMemory, hl, diag_eq_afterDiag]

theorem exec_freeMemory_of_live {r : Region} (hl : Arena.lookup s.regions address = some r) :
    exec (.freeMemory address) s =
      .next (State.trace { s with regions := Arena.free s.regions address } 0x13 (.free address)) := by
  simp only [exec, execFreeMemory, hl]

end free

/-! ### StoreToMemory -/

section store
variable {s : State} {address reg offset : Nat} {r : Region}

theorem exec_storeToMemory_of_absent (hreg : reg < 8) (hl : Arena.lookup s.regions address = none) :
    exec (.storeToMemory address reg offset) s = .next (afterDiag s (.regionNotFound address)) := by
  refine (checkRegs_valid (List.forall_mem_singleton.mpr hreg) s _).trans ?_
  simp only [hl, diag_eq_afterDiag]

theorem exec_storeToMemory_of_size_le (hreg : reg < 8) (hl : Arena.lookup s.regions address = some r)
    (ho : r.size ≤ offset) :
    exec (.storeToMemory address reg offset) s = .next (afterDiag s (.offsetOutOfBounds address offset)) := by
  refine (checkRegs_valid (List.forall_mem_singleton.mpr hreg) s _).trans ?_
  simp only [hl, if_neg ho.not_gt, diag_eq_afterDiag]

theorem exec_storeToMemory_of_lt_size (hreg : reg < 8) (hl : Arena.lookup s.regions address = some r)
    (ho : offset < r.size) :
    exec (.storeToMemory address reg offset) s =
      .next (State.trace
        { s with regions := Arena.writeByte s.regions address offset (trunc8 (s.reg reg)) }
        0x14 (.store address offset (trunc8 (s.reg reg)))) := by
  refine (checkRegs_valid (List.forall_mem_singleton.mpr hreg) s _).trans ?_
  simp only [hl, if_pos ho]

end store

/-! ### LoadFromMemory -/

section load
variable {s : State} {address regDest : Nat}

theorem exec_loadFromMemory_of_absent (hreg : regDest < 8) (hl : Arena.lookup s.regions address = none) :
    exec (.loadFromMemory address regDest) s = .next (afterDiag s (.regionNotFound address)) := by
  refine (checkRegs_valid (List.forall_mem_singleton.mpr hreg) s _).trans ?_
  simp only [hl, diag_eq_afterDiag]

theorem exec_loadFromMemory_of_empty {r : Region} (hreg : regDest < 8) (hl : Arena.lookup s.regions address = some r)
    (hsize : r.size = 0) :
    exec (.loadFromMemory address regDest) s = .next (afterDiag s (.offsetOutOfBounds address 0)) := by
  refine (checkRegs_valid (List.forall_mem_singleton.mpr hreg) s _).trans ?_
  simp only [hl, if_pos hsize, diag_eq_afterDiag]

theorem exec_loadFromMemory_of_byteAt {b : Byte} (hreg : regDest < 8) (hb : Arena.byteAt s.regions address 0 = some b) :
    exec (.loadFromMemory address regDest) s =
      .next ((s.setReg regDest (zext32 b)).trace 0x15 (.load address regDest b.toNat)) := by
  obtain ⟨r, hl, hsize, rfl⟩ := Arena.byteAt_eq_some_iff.mp hb
  refine (checkRegs_valid (List.forall_mem_singleton.mpr hreg) s _).trans ?_
  simp only [hl, if_neg hsize.ne', s32_zext32]

end load

end Sys2Proof.Machine
end

section
/-! PROOFS. Memory (46_memory_ops.md): AllocateMemory (R240, R241), FreeMemory (R245), StoreToMemory (R250, R251),
LoadFromMemory (R260, R261). -/

namespace Sys2Proof.Machine

/-- Settles O19: an allocation that fits ends at or below ARENA_LIMIT, a u32, so the new cursor does not wrap. -/
theorem allocateMemoryMakesAZeroRegion : Obligations.AllocateMemoryMakesAZeroRegion := by
  refine ⟨encodedI_of_format rfl fun _ _ _ _ _ => rfl, fun s size =>
    ⟨exec_allocateMemory_of_exhausted, fun hfits hl hmax => ?_, fun hfits hroom => ?_⟩⟩
  · exact exec_allocateMemory_of_table_full hfits hl fun hroom => Nat.lt_irrefl _ (hroom _ hmax)
  · refine ⟨_, exec_allocateMemory_of_room hfits hroom, ⟨_, Arena.lookup_allocate_same _ _ size, rfl⟩,
      fun o ho => Arena.byteAt_allocate_same _ _ ho, fun k hk => Arena.lookup_allocate_other _ size hk, ?_, rfl⟩
    have hlimit := s.config.arenaLimit.isLt
    exact (BitVec.toNat_ofNat _ _).trans (Nat.mod_eq_of_lt (by omega))

/-- Settles O20: the allocation needs no room in the region table, since its key is live. -/
theorem allocationReplacesASizeZeroRegion : Obligations.AllocationReplacesASizeZeroRegion := by
  intro s size r hinv hl
  refine ⟨size_eq_zero_of_lookup_cursor hinv hl, fun hfits => ?_⟩
  have hlive : Arena.lookup s.regions s.cursor.toNat ≠ none := by simp [hl]
  exact ⟨_, exec_allocateMemory_of_room hfits (.inl hlive), Arena.length_allocate_of_live hinv.1 hl size,
    _, Arena.lookup_allocate_same _ _ size, rfl⟩

/-- Settles O21: the look-up selects between the diagnostic and the removal of that key alone. -/
theorem freeMemoryRemovesTheRegion : Obligations.FreeMemoryRemovesTheRegion := by
  refine ⟨encodedI_of_format rfl fun _ _ _ _ _ => rfl, fun s address => ⟨exec_freeMemory_of_absent, fun hlive => ?_⟩⟩
  obtain ⟨r, hl⟩ := Option.ne_none_iff_exists'.mp hlive
  exact ⟨_, exec_freeMemory_of_live hl, Arena.lookup_free_same _ _, fun k hk => Arena.lookup_free_other _ hk, rfl⟩

/-- Settles O22: past the three checks the store is `Arena.writeByte` at the operand address and offset, and the law that
says what is read after it gives that byte and every other one. -/
theorem storeToMemoryWritesOneByte : Obligations.StoreToMemoryWritesOneByte := by
  refine ⟨encodedAIJ_of_format rfl fun _ _ _ _ _ => rfl, fun s address reg offset => ⟨?_, exec_storeToMemory_of_absent,
    fun r => exec_storeToMemory_of_size_le, fun r hreg hl ho => ?_⟩⟩
  · exact invalidRegisterIsReportedFirst (.storeToMemory address reg offset) s
  · have hbyte := Arena.byteAt_writeByte hl ho (trunc8 (s.reg reg))
    exact ⟨_, trunc8 (s.reg reg), exec_storeToMemory_of_lt_size hreg hl ho, trunc8_toNat _,
      (hbyte _ _).trans (if_pos ⟨rfl, rfl⟩), fun k o hne => (hbyte k o).trans (if_neg hne),
      Arena.map_size_lookup_writeByte _ _ _ _, rfl⟩

/-- Settles O23: past the three checks the load is one register write of the zero-extended byte. -/
theorem loadFromMemoryReadsByteZero : Obligations.LoadFromMemoryReadsByteZero := by
  refine ⟨encodedDI_of_format rfl fun _ _ _ _ _ => rfl, fun s address regDest => ⟨?_, exec_loadFromMemory_of_absent,
    fun r => exec_loadFromMemory_of_empty, fun b hreg hb => ?_⟩⟩
  · exact invalidRegisterIsReportedFirst (.loadFromMemory address regDest) s
  · exact ⟨_, _, exec_loadFromMemory_of_byteAt hreg hb, zext32_toNat b, writesReg_setReg_trace s hreg _ _ _⟩

end Sys2Proof.Machine
end

section
/-! SUPPORT. Subroutine linkage: what a pop answers on each shape of the call stack, and what Call and Return answer under
each of their guards. -/

namespace Sys2Proof.Machine

open Claims

theorem popCall_of_empty {s : State} (hcs : s.cs = []) : s.popCall = none := by
  rw [State.popCall, hcs, List.getLast?_nil]

theorem popCall_of_newest {s : State} {older : List U32} {v : U32} (hcs : s.cs = older ++ [v]) :
    s.popCall = some (v, { s with cs := older }) := by
  rw [State.popCall, hcs, List.getLast?_concat, List.dropLast_concat]

/-- R270: a Call on a full stack faults. -/
theorem exec_call_of_full {s : State} (hfull : s.config.callDepth ≤ s.cs.length) (offset : Nat) :
    exec (.call offset) s = .next (afterFault s .callStackOverflow 0x32) :=
  if_pos ((callStackFull_iff s).mpr hfull)

/-- R270: a Call below the depth pushes, traces the unsaturated target and goes to the saturated one. -/
theorem exec_call_of_room {s : State} (hroom : s.cs.length < s.config.callDepth) (offset : Nat) :
    exec (.call offset) s =
      .next (((s.pushCall s.pc).trace 0x16 (.call s.pc (s.target offset))).setPc (saturate32 (s.target offset))) :=
  if_neg (mt (callStackFull_iff s).mp hroom.not_ge)

/-- R273: a stray Return. -/
theorem exec_ret_of_empty {s : State} (hcs : s.cs = []) : exec .ret s = .next s := by
  simp only [exec, execReturn, popCall_of_empty hcs]

/-- R272: a Return on a stack whose newest entry is `v`. -/
theorem exec_ret_of_newest {s : State} {older : List U32} {v : U32} (hcs : s.cs = older ++ [v]) :
    exec .ret s = .next ((State.trace { s with cs := older } 0x17 (.ret v)).setPc v) := by
  simp only [exec, execReturn, popCall_of_newest hcs]

/-- R271: a target that fits in 32 bits is kept. -/
theorem saturate32_toNat_of_lt {t : Nat} (ht : t < 2 ^ 32) : (saturate32 t).toNat = t := by
  rw [saturate32_toNat]
  omega

/-- R271: any other target becomes 2^32 - 1. -/
theorem saturate32_toNat_of_ge {t : Nat} (ht : 2 ^ 32 ≤ t) : (saturate32 t).toNat = 2 ^ 32 - 1 := by
  rw [saturate32_toNat]
  omega

end Sys2Proof.Machine
end

section
/-! PROOFS. Subroutine linkage (47_call_return.md): Call (R270, R271), Return (R272, R273). -/

namespace Sys2Proof.Machine

/-- Settles O25: the stack's depth selects between the fault and the push; a saturated target is at or past PROG_LEN, since
PROG_LEN is a u32. -/
theorem callPushesAndGoesForward : Obligations.CallPushesAndGoesForward := by
  refine ⟨encodedI_of_format rfl fun _ _ _ _ _ => rfl, fun s offset =>
    ⟨fun hfull => exec_call_of_full hfull.ge offset, fun hroom => ?_⟩⟩
  refine ⟨_, exec_call_of_room hroom offset, saturate32_toNat_of_lt, fun hwide => ?_, rfl⟩
  have hpc : (saturate32 (s.target offset)).toNat = 2 ^ 32 - 1 := saturate32_toNat_of_ge hwide
  exact ⟨hpc, (Nat.le_sub_one_of_lt s.progLen.isLt).trans hpc.ge⟩

/-- Settles O26: format N, and the two shapes of the call stack a Return can meet. -/
theorem returnResumesAtTheNewestEntry : Obligations.ReturnResumesAtTheNewestEntry :=
  ⟨encodedN_of_format rfl fun _ _ _ _ _ => rfl, fun _ => ⟨exec_ret_of_empty, fun _ _ => exec_ret_of_newest⟩⟩

end Sys2Proof.Machine
end

section
/-! SUPPORT. ST and the fault fields across one execution: which effects leave them, and that no effect appends a FAULT
record. -/

namespace Sys2Proof.Machine

/-- ST, FAULT_CAUSE and FAULT_PC of `t` are those of `s`. -/
def SameStatus (s t : State) : Prop := t.st = s.st ∧ t.faultCause = s.faultCause ∧ t.faultPc = s.faultPc

theorem AluEffect.sameStatus {op : Byte} {f : Word → Word → Except FaultCode Word} {a b d : Nat} {s t : State}
    (h : AluEffect op f a b d s t) : SameStatus s t := by
  obtain ⟨-, -, -, v, -, rfl⟩ := h
  simp [SameStatus]

theorem JumpEffect.sameStatus {op : Byte} {offset : Nat} {s t : State} (h : JumpEffect op offset s t) :
    SameStatus s t := by
  obtain ⟨-, rfl⟩ := h
  exact ⟨rfl, rfl, rfl⟩

theorem CondJumpEffect.sameStatus {op : Byte} {taken : Prop} {reg offset : Nat} {s t : State}
    (h : CondJumpEffect op taken reg offset s t) : SameStatus s t := by
  obtain ⟨-, ⟨-, hj⟩ | ⟨-, rfl⟩⟩ := h
  · exact hj.sameStatus
  · exact ⟨rfl, rfl, rfl⟩

/-- An effect writes neither ST nor the fault fields, but for Halt, which writes ST (R232). -/
theorem Effect.sameStatus_or_halt {i : Instr} {s t : State} (h : Effect i s t) :
    SameStatus s t ∨ (i = .halt ∧ t = s.halt.trace 0x11 .empty) := by
  cases i with
  | halt => exact .inr ⟨rfl, h⟩
  | add | sub | mul | div | mod | eq | neq | gt | lt | gte | lte =>
    unfold Effect at h
    exact .inl h.sameStatus
  | jump => exact .inl (JumpEffect.sameStatus h)
  | jumpIfZero | jumpIfNonZero => exact .inl (CondJumpEffect.sameStatus h)
  | setRegister =>
    obtain ⟨-, rfl⟩ := h
    simp [SameStatus]
  | loadFromMemory =>
    obtain ⟨-, r, -, -, rfl⟩ := h
    simp [SameStatus]
  | allocateMemory | storeToMemory =>
    obtain ⟨-, -, rfl⟩ := h
    exact .inl ⟨rfl, rfl, rfl⟩
  | print | freeMemory | call =>
    obtain ⟨-, rfl⟩ := h
    exact .inl ⟨rfl, rfl, rfl⟩
  | ret =>
    obtain ⟨v, -, rfl⟩ := h
    exact .inl ⟨rfl, rfl, rfl⟩

/-- No effect appends a FAULT record. -/
theorem Effect.out_ne_fault {i : Instr} {s t : State} (h : Effect i s t) (j : U32) (c : FaultCode) :
    t.out ≠ s.out ++ [.fault j c] := by
  obtain ⟨reg, -, ho⟩ | ⟨-, p, ho⟩ := h.out_eq <;> simp [ho]

end Sys2Proof.Machine
end

section
/-! PROOFS. Fault entry (60_exceptions.md R310). -/

namespace Sys2Proof.Machine

/-- Settles O35: of what an execution can do, only a raise enters FAULTED, and a raise is the exact fault entry; a
diagnostic, a stray Return and an effect leave the fault fields, and Halt alone writes ST. -/
theorem faultEntryIsPrecise : Obligations.FaultEntryIsPrecise := by
  intro i s t h
  cases exec_cases h with
  | raise c ht => exact .inl ⟨c, ht.trans (raise_eq_afterFault s c)⟩
  | diag d ht =>
    subst ht
    exact .inr ⟨rfl, rfl, .inl rfl, by simp⟩
  | stray _ _ ht =>
    subst ht
    exact .inr ⟨rfl, rfl, .inl rfl, by simp⟩
  | effect he =>
    obtain ⟨hst, hcause, hpc⟩ | ⟨rfl, ht⟩ := he.sameStatus_or_halt
    · exact .inr ⟨hcause, hpc, .inl hst, he.out_ne_fault⟩
    · exact .inr ⟨by simp [ht], by simp [ht], .inr ⟨by simp [ht], rfl⟩, he.out_ne_fault⟩

end Sys2Proof.Machine
end

section
/-! SUPPORT. The shapes the outcome of an execution can have: the 23 instructions leave a state in one of eleven ways, and
what they leave unchanged is read off these. -/

namespace Sys2Proof.Machine

open Claims

/-- A register write that ends with a TRACE record appends that record only. -/
theorem out_setReg_trace (s : State) (d : Nat) (v : Word) (op : Byte) (p : Payload) :
    ((s.setReg d v).trace op p).out = s.out ++ [.trace s.index op p] := by
  simp

/-- `i` is a branch with this offset (R211, R212, R214). -/
def IsBranch (i : Instr) (offset : Nat) : Prop :=
  i = .jump offset ∨ (∃ reg, i = .jumpIfZero reg offset) ∨ ∃ reg, i = .jumpIfNonZero reg offset

/-- The state an execution of `i` on `s` leaves, by what it writes. -/
inductive ExecShape (i : Instr) (s : State) : State → Prop where
  /-- A stray Return (R273). -/
  | stray (hi : i = .ret) (hs : s.cs = []) : ExecShape i s s
  /-- A fault (R310). -/
  | raise (c : FaultCode) : ExecShape i s (s.raise c)
  /-- A record and nothing else: a diagnostic, a PRINT, a branch not taken. -/
  | record (e : EventRecord) (he : e.isFault = false) : ExecShape i s (s.emit e)
  /-- The destination register. -/
  | writes {d : Nat} (hd : writtenReg i = some d) (v : Word) (op : Byte) (p : Payload) :
      ExecShape i s ((s.setReg d v).trace op p)
  /-- A branch taken, its target below PROG_LEN. -/
  | branch {offset : Nat} (hi : IsBranch i offset) (ht : s.target offset < s.progLen.toNat) (op : Byte) (p : Payload) :
      ExecShape i s ((s.trace op p).setPc (BitVec.ofNat 32 (s.target offset)))
  | halt (hi : i = .halt) (op : Byte) (p : Payload) : ExecShape i s (s.halt.trace op p)
  | allocate {size : Nat} (hi : i = .allocateMemory size) (hfits : s.cursor.toNat + size ≤ s.config.arenaLimit.toNat)
      (hroom : Arena.lookup s.regions s.cursor.toNat ≠ none ∨ RoomForRegion s) (op : Byte) (p : Payload) :
      ExecShape i s (State.trace
        { s with
          regions := Arena.allocate s.regions s.cursor.toNat size
          cursor := BitVec.ofNat 32 (s.cursor.toNat + size) } op p)
  | free {address : Nat} (hi : i = .freeMemory address) (op : Byte) (p : Payload) :
      ExecShape i s (State.trace { s with regions := Arena.free s.regions address } op p)
  | store {address reg offset : Nat} (hi : i = .storeToMemory address reg offset) {r : Region}
      (hl : Arena.lookup s.regions address = some r) (ho : offset < r.size) (b : Byte) (op : Byte) (p : Payload) :
      ExecShape i s (State.trace { s with regions := Arena.writeByte s.regions address offset b } op p)
  | call {offset : Nat} (hi : i = .call offset) (hroom : s.cs.length < s.config.callDepth) (op : Byte) (p : Payload) :
      ExecShape i s (((s.pushCall s.pc).trace op p).setPc (saturate32 (s.target offset)))
  | ret (hi : i = .ret) {older : List U32} {v : U32} (hcs : s.cs = older ++ [v]) (op : Byte) (p : Payload) :
      ExecShape i s ((State.trace { s with cs := older } op p).setPc v)

theorem AluEffect.shape {i : Instr} {op : Byte} {f : Word → Word → Except FaultCode Word} {a b d : Nat} {s t : State}
    (hd : writtenReg i = some d) (h : AluEffect op f a b d s t) : ExecShape i s t := by
  obtain ⟨-, -, -, v, -, rfl⟩ := h
  exact .writes hd v op _

theorem JumpEffect.shape {i : Instr} {op : Byte} {offset : Nat} {s t : State} (hi : IsBranch i offset)
    (h : JumpEffect op offset s t) : ExecShape i s t := by
  obtain ⟨ht, rfl⟩ := h
  exact .branch hi ht op _

theorem CondJumpEffect.shape {i : Instr} {op : Byte} {taken : Prop} {reg offset : Nat} {s t : State}
    (hi : IsBranch i offset) (h : CondJumpEffect op taken reg offset s t) : ExecShape i s t := by
  obtain ⟨-, ⟨-, hj⟩ | ⟨-, rfl⟩⟩ := h
  · exact hj.shape hi
  · exact .record _ rfl

theorem Effect.shape {i : Instr} {s t : State} (h : Effect i s t) : ExecShape i s t := by
  cases i with
  | add | sub | mul | div | mod | eq | neq | gt | lt | gte | lte =>
    unfold Effect at h
    exact h.shape rfl
  | setRegister =>
    obtain ⟨-, rfl⟩ := h
    exact .writes rfl _ _ _
  | loadFromMemory =>
    obtain ⟨-, r, -, -, rfl⟩ := h
    exact .writes rfl _ _ _
  | jump => exact JumpEffect.shape (.inl rfl) h
  | jumpIfZero reg => exact CondJumpEffect.shape (.inr (.inl ⟨reg, rfl⟩)) h
  | jumpIfNonZero reg => exact CondJumpEffect.shape (.inr (.inr ⟨reg, rfl⟩)) h
  | print =>
    obtain ⟨-, rfl⟩ := h
    exact .record _ rfl
  | halt =>
    subst h
    exact .halt rfl _ _
  | allocateMemory size =>
    obtain ⟨hfits, hroom, rfl⟩ := h
    refine .allocate rfl ?_ ?_ _ _
    · simpa [State.arenaExhausted] using hfits
    · rw [← Bool.not_eq_true, regionTableFull_iff] at hroom
      tauto
  | freeMemory =>
    obtain ⟨-, rfl⟩ := h
    exact .free rfl _ _
  | storeToMemory =>
    obtain ⟨-, ⟨r, hl, ho⟩, rfl⟩ := h
    exact .store rfl hl ho _ _ _
  | call =>
    obtain ⟨hroom, rfl⟩ := h
    refine .call rfl ?_ _ _
    simpa [State.callStackFull] using hroom
  | ret =>
    obtain ⟨v, hv, rfl⟩ := h
    obtain ⟨older, hcs⟩ := List.getLast?_eq_some_iff.mp hv
    simp only [hcs, List.dropLast_concat]
    exact .ret rfl hcs _ _

/-- Every execution leaves one of these shapes. -/
theorem exec_shape {i : Instr} {s t : State} (h : exec i s = .next t) : ExecShape i s t := by
  cases exec_cases h with
  | diag d ht => exact ht ▸ .record (.diag s.index d) rfl
  | raise c ht => exact ht ▸ .raise c
  | stray hi hs ht =>
    subst ht
    exact .stray hi hs
  | effect he => exact he.shape

end Sys2Proof.Machine
end

section
/-! SUPPORT. What every execution leaves unchanged, read off the shapes: the program and the host's lines, the cursor, the
call stack, `pc`, the registers and the arena's bytes. -/

namespace Sys2Proof.Machine

open Claims

/-! ### Every meaning answers a next state -/

theorem checkRegs_answers (rs : List Nat) (s : State) {go : Result} (h : ∃ t, go = .next t) :
    ∃ t, checkRegs rs s go = .next t := by
  unfold checkRegs
  split
  · exact ⟨_, rfl⟩
  · exact h

theorem execABD_answers (op : Byte) (f : Word → Word → Except FaultCode Word) (a b d : Nat) (s : State) :
    ∃ t, execABD op f a b d s = .next t := by
  refine checkRegs_answers _ s ?_
  cases f (s.reg a) (s.reg b) <;> exact ⟨_, rfl⟩

theorem doJump_answers (op : Byte) (offset : Nat) (s : State) : ∃ t, doJump op offset s = .next t := by
  unfold doJump
  split <;> exact ⟨_, rfl⟩

/-- R301, R310: a diagnostic and a fault are next states, so no instruction stops the model. -/
theorem exec_answers (i : Instr) (s : State) : ∃ t, exec i s = .next t := by
  cases i with
  | setRegister | print => exact checkRegs_answers _ s ⟨_, rfl⟩
  | add | sub | mul | div | mod | eq | neq | gt | lt | gte | lte =>
    simp only [exec, execAdd, execSub, execMul, execDiv, execMod, execEq, execNeq, execGt, execLt, execGte, execLte]
    exact execABD_answers _ _ _ _ _ s
  | jump offset => exact doJump_answers _ offset s
  | jumpIfZero reg offset =>
    refine checkRegs_answers _ s ?_
    split
    · exact doJump_answers _ offset s
    · exact ⟨_, rfl⟩
  | jumpIfNonZero reg offset =>
    refine checkRegs_answers _ s ?_
    split
    · exact ⟨_, rfl⟩
    · exact doJump_answers _ offset s
  | halt => exact ⟨_, rfl⟩
  | allocateMemory size =>
    simp only [exec, execAllocateMemory]
    split
    · exact ⟨_, rfl⟩
    · split <;> exact ⟨_, rfl⟩
  | freeMemory address =>
    simp only [exec, execFreeMemory]
    split <;> exact ⟨_, rfl⟩
  | storeToMemory address reg offset =>
    refine checkRegs_answers _ s ?_
    split
    · exact ⟨_, rfl⟩
    · split <;> exact ⟨_, rfl⟩
  | loadFromMemory address regDest =>
    refine checkRegs_answers _ s ?_
    split
    · exact ⟨_, rfl⟩
    · split <;> exact ⟨_, rfl⟩
  | call offset =>
    simp only [exec, execCall]
    split <;> exact ⟨_, rfl⟩
  | ret =>
    simp only [exec, execReturn]
    split <;> exact ⟨_, rfl⟩

/-! ### The frame -/

/-- The program, the parameters and the input lines of `t` are those of `s`. -/
structure SameProgramAndLines (s t : State) : Prop where
  imem : t.imem = s.imem
  progLen : t.progLen = s.progLen
  config : t.config = s.config
  resetLine : t.resetLine = s.resetLine
  runEnable : t.runEnable = s.runEnable
  eventReady : t.eventReady = s.eventReady

/-- The fetch increment writes `pc` only. -/
theorem SameProgramAndLines.of_advance {s t : State} (h : SameProgramAndLines s.advance t) : SameProgramAndLines s t :=
  ⟨h.imem, h.progLen, h.config, h.resetLine, h.runEnable, h.eventReady⟩

theorem ExecShape.sameProgramAndLines {i : Instr} {s t : State} (h : ExecShape i s t) : SameProgramAndLines s t := by
  cases h <;> constructor <;> simp

/-- R65: an instruction does not take part in the handshake. -/
theorem ExecShape.delivered {i : Instr} {s t : State} (h : ExecShape i s t) : t.delivered = s.delivered := by
  cases h <;> simp

/-- R240: an allocation within ARENA_LIMIT does not wrap the cursor. -/
theorem toNat_cursor_add {s : State} {size : Nat} (hfits : s.cursor.toNat + size ≤ s.config.arenaLimit.toNat) :
    (BitVec.ofNat 32 (s.cursor.toNat + size)).toNat = s.cursor.toNat + size := by
  have hlimit := s.config.arenaLimit.isLt
  exact (BitVec.toNat_ofNat _ _).trans (Nat.mod_eq_of_lt (by omega))

/-- R39: the cursor moves in AllocateMemory only, and forward. -/
theorem ExecShape.cursor {i : Instr} {s t : State} (h : ExecShape i s t) :
    t.cursor = s.cursor ∨ ((∃ size, i = .allocateMemory size) ∧ s.cursor.toNat ≤ t.cursor.toNat) := by
  cases h with
  | allocate hi hfits =>
    refine .inr ⟨⟨_, hi⟩, ?_⟩
    rw [State.trace_cursor, toNat_cursor_add hfits]
    exact Nat.le_add_right _ _
  | stray | raise | record | writes | branch | halt | free | store | call | ret => left; simp

/-- R45: Call alone pushes, and Return alone pops. -/
theorem ExecShape.cs {i : Instr} {s t : State} (h : ExecShape i s t) :
    t.cs = s.cs ∨ (∃ offset, i = .call offset ∧ t.cs = s.cs ++ [s.pc]) ∨ (i = .ret ∧ ∃ v, s.cs = t.cs ++ [v]) := by
  cases h with
  | call hi => exact .inr (.inl ⟨_, hi, rfl⟩)
  | ret hi hcs => exact .inr (.inr ⟨hi, _, hcs⟩)
  | stray | raise | record | writes | branch | halt | allocate | free | store => left; simp

/-- R210: a target below PROG_LEN is a u32. -/
theorem toNat_target {s : State} {offset : Nat} (h : s.target offset < s.progLen.toNat) :
    (BitVec.ofNat 32 (s.target offset)).toNat = s.target offset := by
  have hlen := s.progLen.isLt
  exact (BitVec.toNat_ofNat _ _).trans (Nat.mod_eq_of_lt (by omega))

/-- R276: a Call never goes back. -/
theorem le_saturate32_target (s : State) (offset : Nat) : s.pc.toNat ≤ (saturate32 (s.target offset)).toNat := by
  have hpc := s.pc.isLt
  rw [saturate32_toNat, State.target]
  omega

/-- R34, R276: a branch and a Call go forward, a Return goes to the newest entry, and nothing else writes `pc`. -/
theorem ExecShape.pc {i : Instr} {s t : State} (h : ExecShape i s t) :
    t.pc = s.pc ∨ (((∃ offset, IsBranch i offset) ∨ ∃ offset, i = .call offset) ∧ s.pc.toNat ≤ t.pc.toNat) ∨
      (i = .ret ∧ s.cs = t.cs ++ [t.pc]) := by
  cases h with
  | branch hi ht =>
    refine .inr (.inl ⟨.inl ⟨_, hi⟩, ?_⟩)
    rw [State.setPc_pc, toNat_target ht]
    exact Nat.le_add_right _ _
  | call hi => exact .inr (.inl ⟨.inr ⟨_, hi⟩, le_saturate32_target _ _⟩)
  | ret hi hcs => exact .inr (.inr ⟨hi, hcs⟩)
  | stray | raise | record | writes | halt | allocate | free | store => left; simp

/-- R32: only the destination register is written. -/
theorem ExecShape.reg {i : Instr} {s t : State} (h : ExecShape i s t) {r : Nat} (hr : writtenReg i ≠ some r) :
    t.reg r = s.reg r := by
  cases h with
  | writes hd v =>
    rw [State.trace_reg]
    exact State.reg_setReg_other s v fun hrd => hr (hrd ▸ hd)
  | stray | raise | record | branch | halt | allocate | free | store | call | ret => rfl

theorem Arena.byteAt_congr {a b : Arena} {k : Nat} (h : Arena.lookup a k = Arena.lookup b k) (o : Nat) :
    Arena.byteAt a k o = Arena.byteAt b k o := by
  rw [Arena.byteAt, Arena.byteAt, h]

/-- R72, R76, R84: a byte that is neither stored to nor in a region allocated or freed reads as before. -/
theorem ExecShape.byteAt {i : Instr} {s t : State} (h : ExecShape i s t) {k o : Nat} (hk : ¬ MayChangeByte i s k o) :
    Arena.byteAt t.regions k o = Arena.byteAt s.regions k o := by
  cases h with
  | allocate hi =>
    subst hi
    exact Arena.byteAt_congr (Arena.lookup_allocate_other _ _ hk) o
  | free hi =>
    subst hi
    exact Arena.byteAt_congr (Arena.lookup_free_other _ hk) o
  | store hi hl ho b =>
    subst hi
    exact (Arena.byteAt_writeByte hl ho b k o).trans (if_neg hk)
  | stray | raise | record | writes | branch | halt | call | ret => simp

/-- A stray Return leaves Out as it is, so an execution that appends a record is none (R273). -/
theorem not_stray_of_out {i : Instr} {s t : State} (h : exec i s = .next t) {e : EventRecord}
    (ho : t.out = s.out ++ [e]) : ¬ (i = .ret ∧ s.cs = []) := by
  rintro ⟨rfl, hcs⟩
  obtain rfl : s = t := by simpa [exec_ret_of_empty hcs] using h
  simp at ho

end Sys2Proof.Machine
end

section
/-! PROOFS. All instructions: totality (R301, R310), registers (R32), arena bytes (R72, R76, R84), cursor, stack and program
(R39, R45, R71), `pc` (R34, R276), records (R139). -/

namespace Sys2Proof.Machine

open Claims

/-- Settles O29: every meaning ends in a next state on every path. -/
theorem everyInstructionAnswersANextState : Obligations.EveryInstructionAnswersANextState := exec_answers

/-- Settles O30: only one shape writes a register, and that is the destination. -/
theorem onlyTheDestinationRegisterChanges : Obligations.OnlyTheDestinationRegisterChanges :=
  fun _ _ _ h _ _ hr => (exec_shape h).reg hr

/-- Settles O31: only three shapes write the arena, each at the address its instruction names. -/
theorem onlyTheAddressedBytesChange : Obligations.OnlyTheAddressedBytesChange :=
  fun _ _ _ h _ _ hk => (exec_shape h).byteAt hk

/-- Settles O32: the cursor, the call stack and the rest of the frame, each from the lemma of its own. -/
theorem cursorStackAndProgramFrame : Obligations.CursorStackAndProgramFrame := by
  intro i s t h
  have hshape := exec_shape h
  obtain ⟨himem, hlen, hconfig, hreset, hrun, hready⟩ := hshape.sameProgramAndLines
  refine ⟨fun hne => ?_, ?_, hshape.cs.resolve_left, himem, hlen, hconfig, hreset, hrun, hready, hshape.delivered⟩
  · exact (hshape.cursor.resolve_left hne).1
  · obtain heq | ⟨-, hle⟩ := hshape.cursor
    · rw [heq]
    · exact hle

/-- Settles O33: `pc` is kept, moved forward by a branch or a Call, or set to the newest entry by a Return. -/
theorem programCounterWriters : Obligations.ProgramCounterWriters := by
  intro i s t h
  obtain heq | ⟨hi, hle⟩ | ⟨hi, hcs⟩ := (exec_shape h).pc
  · exact ⟨fun hne => absurd heq hne, fun _ => heq ▸ Nat.le_refl _⟩
  · refine ⟨fun _ => ?_, fun _ => hle⟩
    obtain ⟨offset, hjump | ⟨reg, hz⟩ | ⟨reg, hnz⟩⟩ | hcall := hi
    · exact .inl ⟨offset, hjump⟩
    · exact .inr (.inl ⟨reg, offset, hz⟩)
    · exact .inr (.inr (.inl ⟨reg, offset, hnz⟩))
    · exact .inr (.inr (.inr (.inl hcall)))
  · exact ⟨fun _ => .inr (.inr (.inr (.inr ⟨hi, by simp [hcs]⟩))), fun hne => absurd hi hne⟩

/-- Settles O36: a stray Return apart, each outcome appends one record, whose index and kind the table gives. -/
theorem oneRecordPerInstruction : Obligations.OneRecordPerInstruction := by
  intro i s t h
  have appended : ∀ e, t.out = s.out ++ [e] → RecordOf i s e →
      (i = .ret ∧ s.cs = [] ∧ t = s) ∨
        (¬ (i = .ret ∧ s.cs = []) ∧ ∃ e, t.out = s.out ++ [e] ∧ RecordOf i s e) :=
    fun e ho he => .inr ⟨not_stray_of_out h ho, e, ho, he⟩
  cases exec_cases h with
  | stray hi hs ht => exact .inl ⟨hi, hs, ht⟩
  | diag d ht => exact appended (.diag s.index d) (by simp [ht]) rfl
  | raise c ht => exact appended (.fault s.index c) (by simp [ht]) rfl
  | effect he =>
    obtain ⟨reg, hi, ho⟩ | ⟨hi, p, ho⟩ := he.out_eq
    · exact appended _ ho ⟨rfl, reg, hi, rfl⟩
    · exact appended _ ho ⟨rfl, rfl, hi⟩

end Sys2Proof.Machine
end

section
/-! SUPPORT. The reset state (70_reset_and_hazards.md R340): its registers, and that it meets the invariants of the parts it
clears. -/

namespace Sys2Proof.Machine

@[simp] theorem State.applyReset_reg (s : State) (r : Nat) : s.applyReset.reg r = 0 := by
  simp [State.reg]

theorem applyReset_controlInv (s : State) : s.applyReset.ControlInv := ⟨.nil, nofun, Nat.zero_le _⟩

theorem applyReset_arenaInv (s : State) : s.applyReset.ArenaInv :=
  ⟨⟨.nil, nofun⟩, nofun, .nil, Nat.zero_le _, (regionsFit_iff _ _).mpr fun _ _ => Nat.zero_le _⟩

theorem applyReset_faultInv (s : State) : s.applyReset.FaultInv := by
  rw [State.FaultInv, if_neg (by simp)]
  exact ⟨rfl, rfl, nofun⟩

theorem applyReset_outInv (s : State) : s.applyReset.OutInv := ⟨Nat.le_refl 0, Nat.zero_le 1⟩

/-- Power-up is a reset state. -/
theorem reset_eq_applyReset : State.reset = State.reset.applyReset := rfl

end Sys2Proof.Machine
end

section
/-! PROOFS. Reset (70_reset_and_hazards.md R340). -/

namespace Sys2Proof.Machine

/-- Settles O46: the values are those `State.applyReset` writes. -/
theorem resetValues : Obligations.ResetValues := by
  refine ⟨fun s => ⟨_, rfl, fun r _ => s.applyReset_reg r, ?_⟩, fun r _ => State.reset.applyReset_reg r, ?_⟩
  · exact ⟨rfl, rfl, rfl, rfl, rfl, rfl, rfl, rfl, rfl, rfl⟩
  · exact ⟨rfl, rfl, rfl, rfl, rfl, rfl, rfl, rfl, rfl⟩

/-- Settles O45: power-up is the reset of itself, and a reset keeps the program and clears the rest. -/
theorem resetMeetsTheInvariants : Obligations.ResetMeetsTheInvariants := by
  have reset_inv : ∀ s : State, s.ProgramInv → s.applyReset.Inv := fun s hprogram =>
    ⟨hprogram, applyReset_arenaInv s, applyReset_controlInv s, applyReset_faultInv s, applyReset_outInv s⟩
  exact ⟨reset_eq_applyReset ▸ reset_inv State.reset (by decide), reset_inv⟩

end Sys2Proof.Machine
end

section
/-! SUPPORT. The control invariant (70_reset_and_hazards.md R360) across an execution, and where `pc` only moves forward. -/

namespace Sys2Proof.Machine

/-- The control invariant survives a `pc` that moves forward. -/
theorem State.ControlInv.mono {s t : State} (hinv : s.ControlInv) (hcs : t.cs = s.cs) (hlen : t.progLen = s.progLen)
    (hconfig : t.config = s.config) (hpc : s.pc.toNat ≤ t.pc.toNat) : t.ControlInv := by
  obtain ⟨hrising, hbounds, hdepth⟩ := hinv
  rw [State.ControlInv, hcs, hlen, hconfig]
  refine ⟨hrising, fun e he => ?_, hdepth⟩
  obtain ⟨hone, hle, hbelow⟩ := hbounds e he
  exact ⟨hone, hle, hbelow.trans hpc⟩

/-- R360: an execution keeps the control invariant on a post-fetch state, where `pc` lies in [1, PROG_LEN] and strictly above
every entry, so that it can be pushed. -/
theorem ExecShape.controlInv {i : Instr} {s t : State} (h : ExecShape i s t) (hinv : s.ControlInv)
    (habove : ∀ e ∈ s.cs, e.toNat < s.pc.toNat) (hone : 1 ≤ s.pc.toNat) (hlen : s.pc.toNat ≤ s.progLen.toNat) :
    t.ControlInv := by
  cases h with
  | call hi hroom =>
    have hforward := le_saturate32_target s
    obtain ⟨hrising, hbounds, -⟩ := hinv
    refine ⟨List.pairwise_append.mpr ⟨hrising, List.pairwise_singleton _ _, ?_⟩, fun e he => ?_, ?_⟩
    · simpa using habove
    · obtain he | he := List.mem_append.mp he
      · obtain ⟨h1, h2, h3⟩ := hbounds e he
        exact ⟨h1, h2, h3.trans (hforward _)⟩
      · obtain rfl := List.mem_singleton.mp he
        exact ⟨hone, hlen, hforward _⟩
    · simpa using hroom
  | ret hi hcs =>
    obtain ⟨hrising, hbounds, hdepth⟩ := hinv
    rw [hcs] at hrising hbounds hdepth
    obtain ⟨holder, -, hlast⟩ := List.pairwise_append.mp hrising
    refine ⟨holder, fun e he => ?_, ?_⟩
    · obtain ⟨h1, h2, -⟩ := hbounds e (List.mem_append_left _ he)
      exact ⟨h1, h2, (hlast e he _ List.mem_cons_self).le⟩
    · rw [List.length_append] at hdepth
      exact (Nat.le_add_right _ _).trans hdepth
  | branch hi ht =>
    refine hinv.mono rfl rfl rfl ?_
    rw [State.setPc_pc, toNat_target ht]
    exact Nat.le_add_right _ _
  | stray | raise | record | writes | halt | allocate | free | store =>
    exact hinv.mono (by simp) (by simp) (by simp) (by simp)

end Sys2Proof.Machine
end

section
/-! PROOFS. The control invariant (70_reset_and_hazards.md section 5). -/

namespace Sys2Proof.Machine

/-- Settles O47: outside an execution `pc` never goes back and the call stack is kept; in one, the entry a Call pushes is
the post-fetch `pc`, above every older entry. -/
theorem stepKeepsTheControlInvariant : Obligations.StepKeepsTheControlInvariant := by
  intro s t hinv h
  cases step_cases h with
  | reset _ ht => exact ht ▸ applyReset_controlInv s
  | waiting _ _ ht => exact hinv.mono (by simp [ht]) (by simp [ht]) (by simp [ht]) (by simp [ht])
  | paused _ _ _ _ ht => exact ht ▸ hinv
  | fellOff _ _ _ ht => exact hinv.mono (by simp [ht]) (by simp [ht]) (by simp [ht]) (by simp [ht])
  | illegal _ _ hp _ _ _ _ ht =>
    have hpc := advance_toNat hp
    exact hinv.mono (by simp [ht]) (by simp [ht]) (by simp [ht]) (by
      rw [ht, State.offerRecord_pc, State.raise_pc]
      omega)
  | ran _ _ hp _ _ i _ u hu ht =>
    have hpc := advance_toNat hp
    have hadvance : s.advance.ControlInv := hinv.mono rfl rfl rfl (by omega)
    have hu : u.ControlInv := by
      refine (exec_shape hu).controlInv hadvance (fun e he => ?_) (by omega) (by rw [State.advance_progLen]; omega)
      obtain ⟨-, -, hbelow⟩ := hinv.2.1 e he
      omega
    exact hu.mono (by simp [ht]) (by simp [ht]) (by simp [ht]) (by simp [ht])

end Sys2Proof.Machine
end

section
/-! SUPPORT. The arena invariant through its three writers: what `put` keeps of a relation between entries, and that a store
leaves every address and size. -/

namespace Sys2Proof.Machine

open Claims

/-- A relation that holds between the new entry and the entries on its two sides is kept by `put`. -/
theorem Assoc.pairwise_put {α : Type} {R : Nat × α → Nat × α → Prop} {l : List (Nat × α)} (hrising : Assoc.Rising l)
    (hl : l.Pairwise R) {k : Nat} {v : α} (hbelow : ∀ e ∈ l, e.1 < k → R e (k, v))
    (habove : ∀ e ∈ l, k < e.1 → R (k, v) e) : (Assoc.put l k v).Pairwise R := by
  induction l with
  | nil => exact List.pairwise_singleton _ _
  | cons c l ih =>
    obtain ⟨q, w⟩ := c
    obtain ⟨hq, hrest⟩ := List.pairwise_cons.mp hrising
    obtain ⟨hR, hRrest⟩ := List.pairwise_cons.mp hl
    unfold Assoc.put
    split
    · rename_i hkq
      refine List.pairwise_cons.mpr ⟨fun e he => habove e he ?_, hl⟩
      obtain rfl | he := List.mem_cons.mp he
      · exact hkq
      · exact hkq.trans (hq e he)
    · split
      · rename_i hkq
        exact List.pairwise_cons.mpr ⟨fun e he => habove e (List.mem_cons_of_mem _ he) (hkq ▸ hq e he), hRrest⟩
      · refine List.pairwise_cons.mpr ⟨fun e he => ?_, ih hrest hRrest
          (fun e he => hbelow e (List.mem_cons_of_mem _ he)) fun e he => habove e (List.mem_cons_of_mem _ he)⟩
        obtain rfl | he := Assoc.mem_put he
        · exact hbelow _ List.mem_cons_self (show q < k by omega)
        · exact hR e he

/-- Replacing a value by one that `f` does not tell apart keeps the list as `f` sees it. -/
theorem Assoc.map_put_of_eq {α β : Type} {f : Nat × α → β} {l : List (Nat × α)} (hrising : Assoc.Rising l) {k : Nat}
    {v w : α} (h : Assoc.get? l k = some w) (hf : f (k, v) = f (k, w)) : (Assoc.put l k v).map f = l.map f := by
  induction l with
  | nil => simp [Assoc.get?] at h
  | cons c l ih =>
    obtain ⟨q, u⟩ := c
    obtain ⟨hq, hrest⟩ := List.pairwise_cons.mp hrising
    by_cases hqk : q = k
    · subst hqk
      obtain rfl : u = w := by simpa [Assoc.get?] using h
      simp [Assoc.put, hf]
    · have hget : Assoc.get? l k = some w := by simpa [Assoc.get?, hqk] using h
      have hlt : q < k := hq _ (Assoc.mem_of_get? hget)
      simp [Assoc.put, hlt.not_gt, Ne.symm hqk, ih hrest hget]

/-- The address and the size of every live region, in order. -/
def Arena.spans (a : Arena) : List (Nat × Nat) := a.map fun e => (e.1, e.2.size)

/-- R38: a store leaves the spans. -/
theorem Arena.spans_writeByte {a : Arena} (ha : Arena.wf a) {k : Nat} {r : Region} (hl : Arena.lookup a k = some r)
    (o : Nat) (b : Byte) : Arena.spans (Arena.writeByte a k o b) = Arena.spans a := by
  rw [Arena.writeByte, hl]
  exact Assoc.map_put_of_eq ha.1 hl rfl

/-- Beyond the canonical form the arena invariant is about the spans, the cursor and the capacities. -/
theorem arenaInv_iff_spans (s : State) : s.ArenaInv ↔ Arena.wf s.regions ∧
    (∀ p ∈ Arena.spans s.regions, p.1 + p.2 ≤ s.cursor.toNat) ∧
    ((Arena.spans s.regions).Pairwise fun p q => p.1 + p.2 ≤ q.1) ∧
    s.cursor.toNat ≤ s.config.arenaLimit.toNat ∧
    s.config.regionsFit (Arena.spans s.regions).length = true := by
  simp only [State.ArenaInv, Arena.spans, List.pairwise_map, List.forall_mem_map, List.length_map]

theorem State.ArenaInv.of_spans {s t : State} (hinv : s.ArenaInv) (hwf : Arena.wf t.regions)
    (hspans : Arena.spans t.regions = Arena.spans s.regions) (hcursor : t.cursor = s.cursor)
    (hconfig : t.config = s.config) : t.ArenaInv := by
  rw [arenaInv_iff_spans, hspans, hcursor, hconfig]
  exact ⟨hwf, ((arenaInv_iff_spans s).mp hinv).2⟩

/-- The arena invariant is about the regions, the cursor and the parameters only. -/
theorem State.ArenaInv.congr {s t : State} (hinv : s.ArenaInv) (hregions : t.regions = s.regions)
    (hcursor : t.cursor = s.cursor) (hconfig : t.config = s.config) : t.ArenaInv :=
  hinv.of_spans (hregions ▸ hinv.1) (by rw [hregions]) hcursor hconfig

theorem Config.regionsFit_of_le {c : Config} {m n : Nat} (h : c.regionsFit n = true) (hle : m ≤ n) :
    c.regionsFit m = true :=
  (regionsFit_iff c m).mpr fun k hk => hle.trans ((regionsFit_iff c n).mp h k hk)

/-- R245: a free keeps the invariant. -/
theorem State.ArenaInv.free {s : State} (hinv : s.ArenaInv) (k : Nat) :
    ({ s with regions := Arena.free s.regions k } : State).ArenaInv := by
  obtain ⟨hwf, hends, hspans, hlimit, hfit⟩ := hinv
  exact ⟨Arena.free_wf hwf k, fun e he => hends e (Assoc.mem_erase he).1, hspans.sublist (Assoc.erase_sublist _ _), hlimit,
    Config.regionsFit_of_le hfit (Assoc.length_erase_le _ _)⟩

/-- R241: where the cursor is no key and there is room, or it is a key, one allocation is within MAX_REGIONS. -/
theorem regionsFit_allocate {s : State} (hwf : Arena.wf s.regions) (hfit : s.config.regionsFit s.regions.length = true)
    (hroom : Arena.lookup s.regions s.cursor.toNat ≠ none ∨ RoomForRegion s) (size : Nat) :
    s.config.regionsFit (Arena.allocate s.regions s.cursor.toNat size).length = true := by
  cases hl : Arena.lookup s.regions s.cursor.toNat with
  | some r => rwa [Arena.length_allocate_of_live hwf hl size]
  | none =>
    have hlen : (Arena.allocate s.regions s.cursor.toNat size).length = s.regions.length + 1 :=
      Assoc.length_put_of_none hl
    rw [hlen, regionsFit_iff]
    exact hroom.resolve_left fun hlive => hlive hl

/-- R240: the region put at the cursor lies above every other one, since they all end at or below the cursor. -/
theorem State.ArenaInv.allocate {s : State} (hinv : s.ArenaInv) {size : Nat}
    (hfits : s.cursor.toNat + size ≤ s.config.arenaLimit.toNat)
    (hroom : Arena.lookup s.regions s.cursor.toNat ≠ none ∨ RoomForRegion s) :
    ({ s with
      regions := Arena.allocate s.regions s.cursor.toNat size
      cursor := BitVec.ofNat 32 (s.cursor.toNat + size) } : State).ArenaInv := by
  obtain ⟨hwf, hends, hspans, hlimit, hfit⟩ := hinv
  have hsize : size < 2 ^ 32 := by
    have := s.config.arenaLimit.isLt
    omega
  rw [State.ArenaInv, toNat_cursor_add hfits]
  refine ⟨Arena.allocate_wf hwf s.cursor.isLt hsize, fun e he => ?_, ?_, hfits, regionsFit_allocate hwf hfit hroom size⟩
  · obtain rfl | he := Assoc.mem_put he
    · exact Nat.le_refl _
    · exact (hends e he).trans (Nat.le_add_right _ _)
  · refine Assoc.pairwise_put hwf.1 hspans (fun e he _ => hends e he) fun e he hlt => ?_
    have := hends e he
    omega

/-- Only AllocateMemory, FreeMemory and StoreToMemory write the arena, and each keeps its invariant. -/
theorem ExecShape.arenaInv {i : Instr} {s t : State} (h : ExecShape i s t) (hinv : s.ArenaInv) : t.ArenaInv := by
  cases h with
  | allocate _ hfits hroom => exact (hinv.allocate hfits hroom).congr rfl rfl rfl
  | free => exact (hinv.free _).congr rfl rfl rfl
  | store _ hl ho b =>
    exact hinv.of_spans (Arena.writeByte_wf hinv.1 hl ho b) (Arena.spans_writeByte hinv.1 hl _ b) rfl rfl
  | stray | raise | record | writes | branch | halt | call | ret => exact hinv.congr (by simp) (by simp) (by simp)

/-- R92: an absent address below the cursor stays absent and below it. An allocation's key is the cursor itself, and a
store's key is live. -/
theorem ExecShape.lookup_eq_none {i : Instr} {s t : State} (h : ExecShape i s t) {k : Nat} (hk : k < s.cursor.toNat)
    (hl : Arena.lookup s.regions k = none) : k < t.cursor.toNat ∧ Arena.lookup t.regions k = none := by
  cases h with
  | allocate _ hfits =>
    refine ⟨?_, (Arena.lookup_allocate_other _ _ hk.ne).trans hl⟩
    rw [State.trace_cursor, toNat_cursor_add hfits]
    omega
  | @free address =>
    refine ⟨hk, ?_⟩
    by_cases hka : k = address
    · exact hka ▸ Arena.lookup_free_same _ _
    · exact (Arena.lookup_free_other _ hka).trans hl
  | store _ hlive =>
    refine ⟨hk, (Arena.lookup_writeByte_other _ _ _ ?_).trans hl⟩
    rintro rfl
    simp [hl] at hlive
  | stray | raise | record | writes | branch | halt | call | ret => simpa using ⟨hk, hl⟩

end Sys2Proof.Machine
end

section
/-! PROOFS. The arena invariant (10_state.md section 5) and freed addresses (20_memory.md section 7). -/

namespace Sys2Proof.Machine

/-- Settles O48: the reset arena is empty, an execution keeps the invariant, and nothing else writes the arena. -/
theorem stepKeepsTheArenaInvariant : Obligations.StepKeepsTheArenaInvariant := by
  intro s t hinv h
  cases step_cases h with
  | reset _ ht => exact ht ▸ applyReset_arenaInv s
  | waiting _ _ ht | paused _ _ _ _ ht | fellOff _ _ _ ht | illegal _ _ _ _ _ _ _ ht =>
    exact hinv.congr (by simp [ht]) (by simp [ht]) (by simp [ht])
  | ran _ _ _ _ _ _ _ u hu ht =>
    have hu : u.ArenaInv := (exec_shape hu).arenaInv (hinv.congr rfl rfl rfl)
    exact hu.congr (by simp [ht]) (by simp [ht]) (by simp [ht])

/-- Settles O52: a region of size at least 1 ends at or below the cursor, so its address lies below it; and from there on
only an allocation adds a key, at the cursor. -/
theorem freedAddressIsNeverReused : Obligations.FreedAddressIsNeverReused := by
  refine ⟨fun s k r hinv hl hsize => ?_, fun s t k hr hk hl h => ?_⟩
  · refine ⟨_, exec_freeMemory_of_live hl, ?_, Arena.lookup_free_same _ _⟩
    have hend : k + r.size ≤ s.cursor.toNat := hinv.2.1 _ (Assoc.mem_of_get? hl)
    exact Nat.lt_of_lt_of_le (Nat.lt_add_of_pos_right hsize) hend
  · cases step_cases h with
    | reset hr' => simp [hr] at hr'
    | waiting _ _ ht | paused _ _ _ _ ht | fellOff _ _ _ ht | illegal _ _ _ _ _ _ _ ht => simpa [ht] using ⟨hk, hl⟩
    | ran _ _ _ _ _ _ _ u hu ht =>
      have hu := (exec_shape hu).lookup_eq_none hk hl
      simpa [ht] using hu

end Sys2Proof.Machine
end

section
/-! SUPPORT. The fault record and the records of Out across an execution and a transition. -/

namespace Sys2Proof.Machine

/-- An execution that raises no fault leaves the fault fields, at most halts, and appends no FAULT record. -/
theorem ExecShape.raise_or_no_fault {i : Instr} {s t : State} (h : ExecShape i s t) :
    (∃ c, t = s.raise c) ∨ ((t.st = s.st ∨ t.st = .halted) ∧ t.faultCause = s.faultCause ∧ t.faultPc = s.faultPc ∧
      (t.out = s.out ∨ ∃ e : EventRecord, e.isFault = false ∧ t.out = s.out ++ [e])) := by
  cases h with
  | raise c => exact .inl ⟨c, rfl⟩
  | stray => exact .inr ⟨.inl rfl, rfl, rfl, .inl rfl⟩
  | record e he => exact .inr ⟨.inl rfl, rfl, rfl, .inr ⟨e, he, rfl⟩⟩
  | writes => exact .inr ⟨.inl (by simp), by simp, by simp, .inr ⟨_, rfl, out_setReg_trace s _ _ _ _⟩⟩
  | halt => exact .inr ⟨.inr rfl, rfl, rfl, .inr ⟨_, rfl, rfl⟩⟩
  | branch | allocate | free | store | call | ret => exact .inr ⟨.inl rfl, rfl, rfl, .inr ⟨_, rfl, rfl⟩⟩

/-- R52: an execution appends at most one record. -/
theorem ExecShape.out {i : Instr} {s t : State} (h : ExecShape i s t) : t.out = s.out ∨ ∃ e, t.out = s.out ++ [e] := by
  obtain ⟨c, rfl⟩ | ⟨-, -, -, ho | ⟨e, -, ho⟩⟩ := h.raise_or_no_fault
  · exact .inr ⟨_, rfl⟩
  · exact .inl ho
  · exact .inr ⟨e, ho⟩

/-! ### The fault record -/

theorem faultInv_of_not_faulted {s : State} (hst : s.st ≠ .faulted) :
    s.FaultInv ↔ s.faultCause = 0 ∧ s.faultPc = 0 ∧ ∀ e ∈ s.out, e.isFault = false := by
  rw [State.FaultInv, if_neg hst]

theorem faultInv_of_faulted {s : State} (hst : s.st = .faulted) :
    s.FaultInv ↔ (∃ c : FaultCode, s.faultCause = c.code ∧ s.out.getLast? = some (.fault s.faultPc c)) ∧
      s.faultPc.toNat + 1 = s.pc.toNat ∧ s.faultPc.toNat < s.progLen.toNat := by
  rw [State.FaultInv, if_pos hst]

/-- Whether the host has accepted a record does not show in the fault record. -/
@[simp] theorem faultInv_offerRecord (s : State) : s.offerRecord.FaultInv ↔ s.FaultInv := by
  simp [State.FaultInv]

/-- R310: raising a fault on the post-fetch state records it. -/
theorem faultInv_raise_advance {s : State} (hp : s.pc.toNat < s.progLen.toNat) (c : FaultCode) :
    (s.advance.raise c).FaultInv := by
  rw [faultInv_of_faulted rfl]
  refine ⟨⟨c, rfl, List.getLast?_concat⟩, ?_, ?_⟩
  · rw [State.raise_faultPc, advance_pc_sub, State.raise_pc, advance_toNat hp]
  · simpa using hp

/-- An execution of a running block keeps the fault record. -/
theorem ExecShape.faultInv {i : Instr} {s t : State} (hst : s.st = .running) (hp : s.pc.toNat < s.progLen.toNat)
    (hinv : s.FaultInv) (h : ExecShape i s.advance t) : t.FaultInv := by
  obtain ⟨c, rfl⟩ | ⟨hst', hcause, hpc, ho⟩ := h.raise_or_no_fault
  · exact faultInv_raise_advance hp c
  · have hnot : t.st ≠ .faulted := by
      rw [State.advance_st, hst] at hst'
      obtain h' | h' := hst' <;> simp [h']
    obtain ⟨hzero, hpzero, hnone⟩ := (faultInv_of_not_faulted (by simp [hst])).mp hinv
    refine (faultInv_of_not_faulted hnot).mpr ⟨hcause.trans hzero, hpc.trans hpzero, ?_⟩
    obtain ho | ⟨e, he, ho⟩ := ho <;> rw [ho]
    · exact hnone
    · exact List.forall_mem_append.mpr ⟨hnone, List.forall_mem_singleton.mpr he⟩

theorem running_of_canStart {s : State} (hc : s.canStart = true) : s.st = .running := ((canStart_iff s).mp hc).1

end Sys2Proof.Machine
end

section
/-! PROOFS. The fault record (10_state.md section 8, 60_exceptions.md section 2). -/

namespace Sys2Proof.Machine

/-- Settles O49: a step starts in RUNNING only, where the record is empty; what it leaves is a raised fault or no fault. -/
theorem stepKeepsTheFaultRecordInvariant : Obligations.StepKeepsTheFaultRecordInvariant := by
  intro s t hinv h
  cases step_cases h with
  | reset _ ht => exact ht ▸ applyReset_faultInv s
  | waiting _ _ ht =>
    subst ht
    exact (faultInv_offerRecord s).mpr hinv
  | paused _ _ _ _ ht => exact ht ▸ hinv
  | fellOff hc _ _ ht =>
    subst ht
    have hempty := (faultInv_of_not_faulted (by simp [running_of_canStart hc])).mp hinv
    exact (faultInv_of_not_faulted (by simp)).mpr hempty
  | illegal _ _ hp _ _ _ _ ht =>
    subst ht
    exact (faultInv_offerRecord _).mpr (faultInv_raise_advance hp _)
  | ran hc _ hp _ _ _ _ u hu ht =>
    subst ht
    exact (faultInv_offerRecord u).mpr ((exec_shape hu).faultInv (running_of_canStart hc) hp hinv)

end Sys2Proof.Machine
end

section
/-! SUPPORT. One transition: its equation under each of the block's inputs, how it can stop, and what it keeps. -/

namespace Sys2Proof.Machine

open Claims

/-! ### The equation under each input -/

theorem step_of_reset {s : State} (hr : s.resetLine = true) : step s = .next s.applyReset := by
  simp [step, cycle, hr]

theorem step_of_waiting {s : State} (hr : s.resetLine = false) (hw : s.recordWaiting = true) :
    step s = .next s.offerRecord := by
  simp [step, cycle, hr, hw]

theorem step_of_paused {s : State} (hr : s.resetLine = false) (hw : s.recordWaiting = false) (hs : s.st = .running)
    (he : s.runEnable = false) : step s = .next s := by
  simp [step, cycle, hr, hw, hs, he]

theorem step_of_halted {s : State} (hr : s.resetLine = false) (hw : s.recordWaiting = false) (hs : s.st = .halted) :
    step s = .fault .runHalted := by
  simp [step, cycle, hr, hw, hs]

theorem step_of_faulted {s : State} (hr : s.resetLine = false) (hw : s.recordWaiting = false) (hs : s.st = .faulted) :
    step s = .fault .runFaulted := by
  simp [step, cycle, hr, hw, hs]

/-- R131: a step of a loaded program below PROG_LEN runs the word at `pc`. -/
theorem step_of_word {s : State} (hc : s.canStart = true) (hl : s.ProgramLoaded) (hp : s.pc.toNat < s.progLen.toNat)
    {w : InstrWord} (hw : s.imemRead s.pc = some w) : step s = completeStep (runWord w s.advance) := by
  rw [step_of_canStart hc, runStep_of_loaded hl, runProgram_of_word hp hw]

/-- R130: a step of a loaded program past its end halts. -/
theorem step_past_end {s : State} (hc : s.canStart = true) (hl : s.ProgramLoaded) (hp : s.progLen.toNat ≤ s.pc.toNat) :
    step s = .next s.halt := by
  rw [step_of_canStart hc, runStep_of_loaded hl, runProgram_past_end hp]

/-- R345: a step that starts in a program with a word missing is refused. -/
theorem step_of_unloaded {s : State} (hc : s.canStart = true) {j : U32} (hj : s.firstUnloaded = some j) :
    step s = .refused (.unloadedWord j) := by
  rw [step_of_canStart hc, runStep, hj]

theorem runWord_answers (w : InstrWord) (s : State) : ∃ t, runWord w s = .next t := by
  unfold runWord
  split
  · exact ⟨_, rfl⟩
  · exact exec_answers _ s

/-- A step of a loaded program answers a next state. -/
theorem step_answers {s : State} (hc : s.canStart = true) (hl : s.ProgramLoaded) : ∃ t, step s = .next t := by
  by_cases hp : s.pc.toNat < s.progLen.toNat
  · obtain ⟨w, hw⟩ := imemRead_of_loaded hl hp
    obtain ⟨u, hu⟩ := runWord_answers w s.advance
    exact ⟨u.offerRecord, by rw [step_of_word hc hl hp hw, hu, completeStep]⟩
  · exact ⟨_, step_past_end hc hl (not_lt.mp hp)⟩

/-- What a transition answers where no step can start. -/
inductive IdleCase (s : State) : Prop where
  | reset (h : step s = .next s.applyReset)
  | waiting (h : step s = .next s.offerRecord)
  | paused (h : step s = .next s)
  | halted (hr : s.resetLine = false) (hw : s.recordWaiting = false) (hs : s.st = .halted) (h : step s = .fault .runHalted)
  | faulted (hr : s.resetLine = false) (hw : s.recordWaiting = false) (hs : s.st = .faulted)
      (h : step s = .fault .runFaulted)

theorem idle_cases {s : State} (hc : s.canStart = false) : IdleCase s := by
  by_cases hr : s.resetLine = true
  · exact .reset (step_of_reset hr)
  rw [Bool.not_eq_true] at hr
  by_cases hw : s.recordWaiting = true
  · exact .waiting (step_of_waiting hr hw)
  rw [Bool.not_eq_true] at hw
  cases hs : s.st with
  | halted => exact .halted hr hw hs (step_of_halted hr hw hs)
  | faulted => exact .faulted hr hw hs (step_of_faulted hr hw hs)
  | running => exact .paused (step_of_paused hr hw hs (by simpa [State.canStart, hr, hw, hs] using hc))

/-- Only a step that starts in a program with a word missing is refused (log 5). -/
theorem step_refused {s : State} {r : Refusal} (h : step s = .refused r) :
    s.canStart = true ∧ ∃ j, s.firstUnloaded = some j ∧ r = .unloadedWord j := by
  by_cases hc : s.canStart = true
  · refine ⟨hc, ?_⟩
    cases hj : s.firstUnloaded with
    | some j => exact ⟨j, rfl, by simpa [step_of_unloaded hc hj] using h.symm⟩
    | none =>
      obtain ⟨t, ht⟩ := step_answers hc ((firstUnloaded_eq_none_iff s).mp hj)
      simp [ht] at h
  · rw [Bool.not_eq_true] at hc
    cases idle_cases hc with
    | reset h' | waiting h' | paused h' | halted _ _ _ h' | faulted _ _ _ h' => simp [h'] at h

/-- A transition stops with a fault only where the run has ended and every record is accepted (R35, R140; log 4). -/
theorem step_fault {s : State} {r : Fault} (h : step s = .fault r) :
    s.resetLine = false ∧ s.recordWaiting = false ∧
      (s.st = .halted ∧ r = .runHalted ∨ s.st = .faulted ∧ r = .runFaulted) := by
  by_cases hc : s.canStart = true
  · cases hj : s.firstUnloaded with
    | some j => simp [step_of_unloaded hc hj] at h
    | none =>
      obtain ⟨t, ht⟩ := step_answers hc ((firstUnloaded_eq_none_iff s).mp hj)
      simp [ht] at h
  · rw [Bool.not_eq_true] at hc
    cases idle_cases hc with
    | reset h' | waiting h' | paused h' => simp [h'] at h
    | halted hr hw hs h' => exact ⟨hr, hw, .inl ⟨hs, by simpa [h'] using h.symm⟩⟩
    | faulted hr hw hs h' => exact ⟨hr, hw, .inr ⟨hs, by simpa [h'] using h.symm⟩⟩

/-! ### The event port -/

/-- With the host ready, a waiting record is accepted. -/
theorem offerRecord_of_ready {s : State} (hready : s.eventReady = true) (hw : s.recordWaiting = true) :
    s.offerRecord = s.acceptRecord := by
  simp [State.offerRecord, hready, hw]

theorem offerRecord_of_not_ready {s : State} (hready : s.eventReady = false) : s.offerRecord = s := by
  simp [State.offerRecord, hready]

theorem offerRecord_of_not_waiting {s : State} (hw : s.recordWaiting = false) : s.offerRecord = s := by
  simp [State.offerRecord, hw]

theorem offerRecord_eq_or (s : State) :
    s.offerRecord = s ∨ (s.eventReady = true ∧ s.delivered < s.out.length ∧ s.offerRecord = s.acceptRecord) := by
  by_cases hready : s.eventReady = true
  · by_cases hw : s.recordWaiting = true
    · exact .inr ⟨hready, (recordWaiting_iff s).mp hw, offerRecord_of_ready hready hw⟩
    · exact .inl (offerRecord_of_not_waiting (by simpa using hw))
  · exact .inl (offerRecord_of_not_ready (by simpa using hready))

/-- The claims' word for the host's part of a transition is the model's. -/
theorem served_eq_offerRecord (t : State) : served t = t.offerRecord := by
  simp only [served, State.offerRecord, Bool.and_eq_true, recordWaiting_iff]
  rfl

/-- What has been accepted is not part of the core of a state. -/
@[simp] theorem core_offerRecord (s : State) : s.offerRecord.core = s.core := by
  unfold State.offerRecord
  split <;> rfl

/-- R65: the host accepts at most one record at a time. -/
theorem delivered_le_offerRecord (s : State) :
    s.delivered ≤ s.offerRecord.delivered ∧ s.offerRecord.delivered ≤ s.delivered + 1 := by
  obtain h | ⟨-, -, h⟩ := offerRecord_eq_or s <;> simp [h]

theorem outInv_offerRecord {s : State} (h : s.OutInv) : s.offerRecord.OutInv := by
  obtain ⟨hle, hlast⟩ := h
  obtain h | ⟨-, hlt, h⟩ := offerRecord_eq_or s <;> rw [h]
  · exact ⟨hle, hlast⟩
  · exact ⟨hlt, hlast.trans (Nat.le_succ _)⟩

/-! ### What every transition keeps -/

/-- R71: no transition writes the program, the parameters or the input lines. -/
theorem step_sameProgramAndLines {s t : State} (h : step s = .next t) : SameProgramAndLines s t := by
  cases step_cases h with
  | reset _ ht | waiting _ _ ht | paused _ _ _ _ ht | fellOff _ _ _ ht | illegal _ _ _ _ _ _ _ ht =>
    constructor <;> simp [ht]
  | ran _ _ _ _ _ _ _ u hu ht =>
    obtain ⟨himem, hlen, hconfig, hreset, hrun, hready⟩ := (exec_shape hu).sameProgramAndLines.of_advance
    constructor <;> simp [*]

theorem SameProgramAndLines.programLoaded {s t : State} (h : SameProgramAndLines s t) (hl : s.ProgramLoaded) :
    t.ProgramLoaded := by
  rw [State.ProgramLoaded, h.imem, h.progLen]
  exact hl

/-- R52: outside reset a transition appends at most one record. -/
theorem step_out {s t : State} (hr : s.resetLine = false) (h : step s = .next t) :
    t.out = s.out ∨ ∃ e, t.out = s.out ++ [e] := by
  cases step_cases h with
  | reset hr' => simp [hr] at hr'
  | waiting _ _ ht | paused _ _ _ _ ht | fellOff _ _ _ ht => exact .inl (by simp [ht])
  | illegal _ _ _ _ _ _ _ ht => exact .inr ⟨.fault s.advance.index .illegalInstruction, by simp [ht]⟩
  | ran _ _ _ _ _ _ _ u hu ht =>
    rw [ht, State.offerRecord_out]
    exact (exec_shape hu).out

/-- R65: outside reset a transition accepts at most one record. -/
theorem step_delivered {s t : State} (hr : s.resetLine = false) (h : step s = .next t) :
    s.delivered ≤ t.delivered ∧ t.delivered ≤ s.delivered + 1 := by
  cases step_cases h with
  | reset hr' => simp [hr] at hr'
  | waiting _ _ ht => exact ht ▸ delivered_le_offerRecord s
  | paused _ _ _ _ ht | fellOff _ _ _ ht => simp [ht]
  | illegal _ _ _ _ _ _ _ ht => exact ht ▸ delivered_le_offerRecord (s.advance.raise .illegalInstruction)
  | ran _ _ _ _ _ _ _ u hu ht =>
    have hdelivered : u.delivered = s.delivered := (exec_shape hu).delivered
    exact hdelivered ▸ ht ▸ delivered_le_offerRecord u

/-- A record appended once every earlier one is accepted is the only one that waits. -/
theorem outInv_of_appended {s u : State} (hinv : s.OutInv) (hc : s.canStart = true) (hd : u.delivered = s.delivered)
    (ho : u.out = s.out ∨ ∃ e, u.out = s.out ++ [e]) : u.OutInv := by
  obtain ⟨-, -, haccepted, -⟩ := (canStart_iff s).mp hc
  rw [State.OutInv, hd]
  obtain ho | ⟨e, ho⟩ := ho <;> rw [ho]
  · exact hinv
  · simpa using ⟨hinv.1.trans (Nat.le_succ _), haccepted⟩

/-- R65: at most one record waits, after every transition. -/
theorem step_keeps_outInv {s t : State} (h : step s = .next t) (hinv : s.OutInv) : t.OutInv := by
  cases step_cases h with
  | reset _ ht => exact ht ▸ applyReset_outInv s
  | waiting _ _ ht => exact ht ▸ outInv_offerRecord hinv
  | paused _ _ _ _ ht => exact ht ▸ hinv
  | fellOff _ _ _ ht => exact ht ▸ hinv
  | illegal hc _ _ _ _ _ _ ht => exact ht ▸ outInv_offerRecord (outInv_of_appended hinv hc rfl (.inr ⟨_, rfl⟩))
  | ran hc _ _ _ _ _ _ u hu ht =>
    have hshape := exec_shape hu
    exact ht ▸ outInv_offerRecord (outInv_of_appended hinv hc hshape.delivered hshape.out)

/-- R345: a host move launches loaded programs only. -/
theorem hostMove_keeps_launchInv {s t : State} {m : HostMove} (hinv : s.LaunchInv) (h : s.hostMove m = some t) :
    t.LaunchInv := by
  cases hostMove_cases h with
  | assertReset ht => exact fun hr => by simp [ht] at hr
  | releaseReset hl ht =>
    subst ht
    intro _
    cases hr : s.resetLine with
    | true => exact hl hr
    | false => exact hinv hr
  | ignoredWord _ _ _ ht | ignoredLength _ _ ht => exact ht ▸ hinv
  | loadedWord hr _ _ _ ht | loadedLength hr _ _ ht => exact fun hr' => by simp [ht, hr] at hr'
  | runEnable _ ht | eventReady _ ht => exact ht ▸ hinv

end Sys2Proof.Machine
end

section
/-! PROOFS. The step (40_dispatch.md), pauses and the event port (10_state.md R60 to R65), launches
(70_reset_and_hazards.md R345), and what every transition keeps. -/

namespace Sys2Proof.Machine

open Claims

/-- Settles O38: the fetched word's instruction runs on the incremented state and answers a next state. -/
theorem stepRunsTheDecodedInstruction : Obligations.StepRunsTheDecodedInstruction := by
  intro s w i hc hl hp hw hd
  obtain ⟨t, ht⟩ := exec_answers i s.advance
  refine ⟨t, ht, ?_⟩
  rw [step_of_word hc hl hp hw, runWord, hd, served_eq_offerRecord]
  simp only [ht, completeStep]

/-- Settles O39: the fetched word's fault is raised on the incremented state, whose executing index is the word's. -/
theorem illegalWordFaults : Obligations.IllegalWordFaults := by
  intro s w e hc hl hp hw hd
  have hraise : s.advance.raise .illegalInstruction = { s with
      pc := s.pc + 1, st := .faulted, faultCause := 0x20, faultPc := s.pc
      out := s.out ++ [.fault s.pc .illegalInstruction] } := by
    rw [State.raise, advance_pc_sub]
    rfl
  rw [step_of_word hc hl hp hw, runWord, hd, served_eq_offerRecord, ← hraise]
  rfl

/-- Settles O41: each input selects its own equation; where no step can start only those remain. -/
theorem pauseAndBackPressureHoldTheState : Obligations.PauseAndBackPressureHoldTheState := by
  refine ⟨fun s => step_of_reset, fun s hr => ⟨fun hlt hready => ?_, fun hlt hready => ?_, fun hle hs he => ?_⟩,
    fun s t hc h => ?_⟩
  · rw [step_of_waiting hr ((recordWaiting_iff s).mpr hlt), offerRecord_of_not_ready hready]
  · have hw := (recordWaiting_iff s).mpr hlt
    rw [step_of_waiting hr hw, offerRecord_of_ready hready hw]
    rfl
  · exact step_of_paused hr (by simpa [State.recordWaiting] using hle) hs he
  · cases step_cases h with
    | reset hr ht => exact .inr (.inr ⟨hr, ht⟩)
    | waiting _ _ ht =>
      obtain h' | ⟨-, -, h'⟩ := offerRecord_eq_or s
      · exact .inl (ht.trans h')
      · exact .inr (.inl (ht.trans h'))
    | paused _ _ _ _ ht => exact .inl ht
    | fellOff hc' | illegal hc' | ran hc' => simp [hc] at hc'

/-- Settles O42: outside RUNNING only the waiting record is left to accept, and only asserting `reset` writes ST. -/
theorem onlyResetLeavesATerminalState : Obligations.OnlyResetLeavesATerminalState := by
  have waits : ∀ s t : State, s.st ≠ .running → s.resetLine = false → step s = .next t →
      s.recordWaiting = true ∧ t = s.offerRecord := by
    intro s t hs hr h
    cases step_cases h with
    | reset hr' => simp [hr] at hr'
    | waiting _ hw ht => exact ⟨hw, ht⟩
    | paused _ _ hs' => exact absurd hs' hs
    | fellOff hc | illegal hc | ran hc => exact absurd (running_of_canStart hc) hs
  refine ⟨fun s t hs hr h => ?_, fun s hs hr hle t h => ?_, fun s t m h hm => ?_⟩
  · obtain ⟨-, rfl⟩ := waits s t hs hr h
    exact ⟨State.offerRecord_st s, core_offerRecord s⟩
  · exact hle.not_gt ((recordWaiting_iff s).mp (waits s t hs hr h).1)
  · rw [hostMove_frame h hm]

/-- Settles O44: only an execution and an illegal word write Out, each one record. -/
theorem atMostOneRecordPerStep : Obligations.AtMostOneRecordPerStep := fun _ _ => step_out

/-- Settles O50: no shape of a transition writes the program, and a step starts with every record accepted. -/
theorem stepKeepsProgramAndPort : Obligations.StepKeepsProgramAndPort := by
  intro s t h
  have hkept := step_sameProgramAndLines h
  exact ⟨hkept.imem, hkept.progLen, hkept.config, step_keeps_outInv h⟩

/-- Settles O43: a launch is refused exactly for its first unloaded index, and neither a transition nor a move outside
reset writes the program. -/
theorem loadedProgramIsNeverRefused : Obligations.LoadedProgramIsNeverRefused := by
  refine ⟨fun s => ?_, fun s hc hl => ?_, fun s r h => ?_, fun s r hl h => ?_, fun s t hinv h hr => ?_,
    fun s t m => hostMove_keeps_launchInv, fun _ => (firstUnloaded_eq_none_iff _).mp rfl⟩
  · rw [← firstUnloaded_eq_none_iff]
    simp [State.hostMove, Option.isSome_iff_ne_none]
  · rw [← firstUnloaded_eq_none_iff] at hl
    obtain ⟨j, hj⟩ := Option.ne_none_iff_exists'.mp hl
    exact ⟨j, step_of_unloaded hc hj⟩
  · obtain ⟨hc, j, hj, hrj⟩ := step_refused h
    obtain ⟨hlt, hnone, hbelow⟩ := firstUnloaded_eq_some hj
    exact ⟨hc, j, hrj, hlt, hnone, fun q hq => Option.isSome_iff_ne_none.mp (hbelow _ hq)⟩
  · obtain ⟨-, j, hj, -⟩ := step_refused h
    simp [(firstUnloaded_eq_none_iff s).mpr hl] at hj
  · have hkept := step_sameProgramAndLines h
    exact hkept.programLoaded (hinv (hkept.resetLine ▸ hr))

/-- Settles O60: Out only grows, the count of accepted records goes up by at most one, and a waiting record is the one a
ready host accepts. -/
theorem eventPortDeliversInOrder : Obligations.EventPortDeliversInOrder := by
  intro s t hr hinv h
  obtain ⟨hle, hsucc⟩ := step_delivered hr h
  have hout : s.out <+: t.out := by
    obtain ho | ⟨e, ho⟩ := step_out hr h <;> rw [ho]
    exact List.prefix_append _ _
  refine ⟨?_, ?_, fun e he hready => ?_, fun hw hready => ?_⟩
  · exact (hout.take _).trans (List.take_prefix_take_left hle)
  · have hs : (s.out.take s.delivered).length = s.delivered := List.length_take_of_le hinv.1
    have ht : (t.out.take t.delivered).length ≤ t.delivered := List.length_take_le _ _
    omega
  · have hw : s.recordWaiting = true := (recordWaiting_iff s).mpr (List.getElem?_eq_some_iff.mp he).1
    rw [step_of_waiting hr hw, offerRecord_of_ready hready hw] at h
    obtain rfl := Host.Outcome.next.inj h
    rw [State.presentedRecord] at he
    simp [List.take_add_one, he]
  · rw [step_of_waiting hr hw, offerRecord_of_not_ready hready] at h
    exact (Host.Outcome.next.inj h).symm

end Sys2Proof.Machine
end

section
/-! SUPPORT. A bound on the steps a run still takes (70_reset_and_hazards.md section 5): the code from an index on runs at
most twice for each index passed, once by a Call and once after its Return. -/

namespace Sys2Proof.Machine

open Claims

/-- A bound on the steps of a program of length `len` from index `p` on, until the run ends or returns to a position pushed
before: past each index the rest runs at most twice, once for a Call and once after the Return to the position it pushes. -/
def stepBound (len p : U32) : Nat := 2 ^ (len.toNat - p.toNat + 1) - 1

theorem stepBound_pos (len p : U32) : 0 < stepBound len p := by
  have h : 2 ^ 1 ≤ 2 ^ (len.toNat - p.toNat + 1) := Nat.pow_le_pow_right (by decide) (by omega)
  unfold stepBound
  omega

theorem stepBound_antitone (len : U32) {p q : U32} (h : p.toNat ≤ q.toNat) : stepBound len q ≤ stepBound len p :=
  Nat.sub_le_sub_right (Nat.pow_le_pow_right (by decide) (by omega)) 1

/-- One step and twice the rest. -/
theorem stepBound_succ {len p q : U32} (hp : p.toNat < len.toNat) (hq : q.toNat = p.toNat + 1) :
    2 * stepBound len q + 1 = stepBound len p := by
  have hexp : len.toNat - p.toNat + 1 = len.toNat - q.toNat + 1 + 1 := by omega
  have hpos := Nat.two_pow_pos (len.toNat - q.toNat + 1)
  rw [stepBound, stepBound, hexp, Nat.pow_succ]
  omega

/-- The steps to run from every open return position. -/
def State.pendingSteps (s : State) : Nat := (s.cs.map (stepBound s.progLen)).sum

/-- The steps a run still takes, at most: from `pc`, and then from every return position. -/
def State.stepsLeft (s : State) : Nat := stepBound s.progLen s.pc + s.pendingSteps

theorem stepsLeft_congr {s t : State} (hlen : t.progLen = s.progLen) (hcs : t.cs = s.cs) (hpc : t.pc = s.pc) :
    t.stepsLeft = s.stepsLeft := by
  rw [State.stepsLeft, State.stepsLeft, State.pendingSteps, State.pendingSteps, hlen, hcs, hpc]

/-- After the fetch increment an execution leaves at most twice the rest of the program: a Call runs it from its target and
again from the position it pushes. -/
theorem ExecShape.stepsLeft_le {i : Instr} {s t : State} (h : ExecShape i s t) :
    t.stepsLeft ≤ 2 * stepBound s.progLen s.pc + s.pendingSteps := by
  have hlen := h.sameProgramAndLines.progLen
  rw [State.stepsLeft, State.pendingSteps, State.pendingSteps, hlen]
  cases h with
  | branch hi ht =>
    have hpc : s.pc.toNat ≤ (BitVec.ofNat 32 (s.target _)).toNat := (Nat.le_add_right _ _).trans (toNat_target ht).ge
    have hle := stepBound_antitone s.progLen hpc
    simp only [State.setPc_pc, State.setPc_cs, State.trace_cs]
    omega
  | @call offset =>
    have hle := stepBound_antitone s.progLen (le_saturate32_target s offset)
    simp only [State.setPc_pc, State.setPc_cs, State.trace_cs, State.pushCall_cs, List.map_append, List.sum_append,
      List.map_cons, List.map_nil, List.sum_cons, List.sum_nil]
    omega
  | ret hi hcs =>
    simp only [State.setPc_pc, State.setPc_cs, State.trace_cs, hcs, List.map_append, List.sum_append,
      List.map_cons, List.map_nil, List.sum_cons, List.sum_nil]
    omega
  | stray | raise | record | writes | halt | allocate | free | store =>
    simp
    omega

/-- A loaded program's next step can start, and the host goes on accepting. -/
structure State.GoesOn (s : State) : Prop where
  canStart : s.canStart = true
  eventReady : s.eventReady = true
  loaded : s.ProgramLoaded

/-- With the host ready, the record a step appended is accepted in the same transition, and the next step can start. -/
theorem State.GoesOn.of_appended {s u : State} (hs : s.GoesOn) (hkept : SameProgramAndLines s u)
    (hd : u.delivered = s.delivered) (ho : u.out = s.out ∨ ∃ e, u.out = s.out ++ [e]) (hrun : u.st = .running) :
    u.offerRecord.GoesOn := by
  obtain ⟨-, henable, haccepted, hreset⟩ := (canStart_iff s).mp hs.canStart
  refine ⟨(canStart_iff _).mpr ⟨?_, ?_, ?_, ?_⟩, ?_, ?_⟩
  · simpa using hrun
  · simpa [hkept.runEnable] using henable
  · have hlen : u.out.length ≤ u.delivered + 1 := by
      obtain ho | ⟨e, ho⟩ := ho <;> rw [ho, hd]
      · omega
      · simpa using haccepted
    rw [State.offerRecord_out]
    by_cases hw : u.recordWaiting = true
    · rw [offerRecord_of_ready (hkept.eventReady.trans hs.eventReady) hw]
      exact hlen
    · rw [offerRecord_of_not_waiting (by simpa using hw)]
      simpa [State.recordWaiting] using hw
  · simpa [hkept.resetLine] using hreset
  · simpa [hkept.eventReady] using hs.eventReady
  · have hu := hkept.programLoaded hs.loaded
    simpa [State.ProgramLoaded] using hu

/-- A step ends the run, or the run goes on with fewer steps left. -/
theorem State.GoesOn.step {s : State} (hs : s.GoesOn) :
    ∃ t, step s = .next t ∧ (t.st ≠ .running ∨ (t.GoesOn ∧ t.stepsLeft < s.stepsLeft)) := by
  obtain ⟨t, ht⟩ := step_answers hs.canStart hs.loaded
  refine ⟨t, ht, ?_⟩
  obtain ⟨hrunning, henable, haccepted, hreset⟩ := (canStart_iff s).mp hs.canStart
  cases step_cases ht with
  | reset hr => simp [hreset] at hr
  | waiting _ hw => exact absurd ((recordWaiting_iff s).mp hw) haccepted.not_gt
  | paused _ _ _ he => simp [henable] at he
  | fellOff _ _ _ ht => exact .inl (by simp [ht])
  | illegal _ _ _ _ _ _ _ ht => exact .inl (by simp [ht])
  | ran _ _ hp _ _ i _ u hu ht =>
    subst ht
    rw [State.offerRecord_st]
    by_cases hrun : u.st = .running
    · have hshape := exec_shape hu
      refine .inr ⟨hs.of_appended hshape.sameProgramAndLines.of_advance hshape.delivered hshape.out hrun, ?_⟩
      have hsucc := stepBound_succ hp (advance_toNat hp)
      calc u.offerRecord.stepsLeft
          = u.stepsLeft := stepsLeft_congr (by simp) (by simp) (by simp)
        _ ≤ 2 * stepBound s.progLen s.advance.pc + s.pendingSteps := hshape.stepsLeft_le
        _ < stepBound s.progLen s.pc + s.pendingSteps := by omega
    · exact .inl hrun

/-- A run's first step. -/
theorem run_succ_of_step {k : Nat} {s t : State} (h : step s = .next t) :
    Host.Core.run Sys2Proof.core (k + 1) s = Host.Core.run Sys2Proof.core k t := by
  have hcore : Sys2Proof.core.step s = .next t := h
  simp only [Host.Core.run, hcore]

/-- A run that goes on ends within the steps left. -/
theorem State.GoesOn.ends {n : Nat} {s : State} (hs : s.GoesOn) (hn : s.stepsLeft ≤ n) :
    ∃ (k : Nat) (t : State), k ≤ n ∧ Host.Core.run Sys2Proof.core k s = .next t ∧ t.st ≠ .running := by
  induction n generalizing s with
  | zero =>
    have hpos := stepBound_pos s.progLen s.pc
    have : stepBound s.progLen s.pc ≤ s.stepsLeft := Nat.le_add_right _ _
    omega
  | succ n ih =>
    obtain ⟨t, ht, hended | ⟨hgoes, hless⟩⟩ := hs.step
    · exact ⟨1, t, by omega, run_succ_of_step ht, hended⟩
    · obtain ⟨k, v, hk, hv, hended⟩ := ih hgoes (by omega)
      exact ⟨k + 1, v, by omega, (run_succ_of_step ht).trans hv, hended⟩

/-- The bound from index 0, in the spec's form. -/
theorem stepBound_zero_le (len : U32) : stepBound len 0 ≤ len.toNat * 2 ^ len.toNat + 1 := by
  have hzero : stepBound len 0 = 2 ^ len.toNat * 2 - 1 := by
    rw [stepBound, Nat.pow_succ]
    rfl
  rcases h : len.toNat with _ | _ | n
  · rw [hzero, h]
    decide
  · rw [hzero, h]
    decide
  · rw [hzero, h]
    have := Nat.mul_le_mul_right (2 ^ (n + 1 + 1)) (show 2 ≤ n + 1 + 1 by omega)
    omega

end Sys2Proof.Machine
end

section
/-! PROOFS. Every run ends (70_reset_and_hazards.md section 5). -/

namespace Sys2Proof.Machine

/-- Settles O53: every step lowers the bound on the steps left, which from index 0 with no call open is 2^(PROG_LEN + 1) - 1. -/
theorem everyRunEnds : Obligations.EveryRunEnds := by
  intro s hc hready hpc hcs hl
  have hleft : s.stepsLeft = stepBound s.progLen 0 := by simp [State.stepsLeft, State.pendingSteps, hpc, hcs]
  exact State.GoesOn.ends ⟨hc, hready, hl⟩ (hleft ▸ stepBound_zero_le s.progLen)

end Sys2Proof.Machine
end

section
/-! SUPPORT. No instruction reads the host's side of the block: an execution and a change of `run_enable`, the ready line and
the acceptance count commute (10_state.md R62, R65). -/

namespace Sys2Proof.Machine

/-- `s` with another host's side. -/
def State.withPort (s : State) (run ready : Bool) (n : Nat) : State :=
  { s with runEnable := run, eventReady := ready, delivered := n }

theorem core_eq_withPort (s : State) : s.core = s.withPort true true s.out.length := rfl

/-- A change of the state an outcome leaves. -/
def mapNext (f : State → State) : Result → Result
  | .next t => .next (f t)
  | .fault r => .fault r
  | .refused r => .refused r

section port
variable (run ready : Bool) (n : Nat)

theorem withPort_reg (s : State) (r : Nat) : (s.withPort run ready n).reg r = s.reg r := rfl

theorem withPort_regions (s : State) : (s.withPort run ready n).regions = s.regions := rfl

theorem withPort_setReg (s : State) (r : Nat) (v : Word) :
    (s.withPort run ready n).setReg r v = (s.setReg r v).withPort run ready n := by
  unfold State.setReg
  split <;> rfl

theorem checkRegs_mapNext {f : State → State} {rs : List Nat} {s s' : State} {go go' : Result}
    (hdiag : ∀ d, s'.diag d = f (s.diag d)) (hgo : go' = mapNext f go) :
    checkRegs rs s' go' = mapNext f (checkRegs rs s go) := by
  unfold checkRegs
  split
  · rw [hdiag]
    rfl
  · exact hgo

theorem ite_mapNext {f : State → State} {c c' : Prop} [Decidable c] [Decidable c'] {p p' q q' : Result} (hc : c' ↔ c)
    (hp : p' = mapNext f p) (hq : q' = mapNext f q) : (if c' then p' else q') = mapNext f (if c then p else q) := by
  by_cases h : c
  · rw [if_pos h, if_pos (hc.mpr h), hp]
  · rw [if_neg h, if_neg (mt hc.mp h), hq]

theorem execABD_withPort (op : Byte) (f : Word → Word → Except FaultCode Word) (a b d : Nat) (s : State) :
    execABD op f a b d (s.withPort run ready n) = mapNext (·.withPort run ready n) (execABD op f a b d s) := by
  refine checkRegs_mapNext (fun _ => rfl) ?_
  simp only [withPort_reg, withPort_setReg]
  cases f (s.reg a) (s.reg b) <;> rfl

theorem doJump_withPort (op : Byte) (offset : Nat) (s : State) :
    doJump op offset (s.withPort run ready n) = mapNext (·.withPort run ready n) (doJump op offset s) :=
  ite_mapNext Iff.rfl rfl rfl

/-- R62, R65: an execution takes no notice of the host's side. -/
theorem exec_withPort (i : Instr) (s : State) :
    exec i (s.withPort run ready n) = mapNext (·.withPort run ready n) (exec i s) := by
  cases i with
  | add | sub | mul | div | mod | eq | neq | gt | lt | gte | lte =>
    simp only [exec, execAdd, execSub, execMul, execDiv, execMod, execEq, execNeq, execGt, execLt, execGte, execLte]
    exact execABD_withPort _ _ _ _ _ _ _ _ s
  | setRegister =>
    refine checkRegs_mapNext (fun _ => rfl) ?_
    rw [withPort_setReg]
    rfl
  | jump => exact doJump_withPort _ _ _ _ _ s
  | jumpIfZero => exact checkRegs_mapNext (fun _ => rfl) (ite_mapNext Iff.rfl (doJump_withPort _ _ _ _ _ s) rfl)
  | jumpIfNonZero => exact checkRegs_mapNext (fun _ => rfl) (ite_mapNext Iff.rfl rfl (doJump_withPort _ _ _ _ _ s))
  | print => exact checkRegs_mapNext (fun _ => rfl) rfl
  | halt => rfl
  | allocateMemory => exact ite_mapNext Iff.rfl rfl (ite_mapNext Iff.rfl rfl rfl)
  | call => exact ite_mapNext Iff.rfl rfl rfl
  | freeMemory address =>
    simp only [exec, execFreeMemory, withPort_regions]
    cases Arena.lookup s.regions address <;> rfl
  | storeToMemory address reg offset =>
    refine checkRegs_mapNext (fun _ => rfl) ?_
    simp only [withPort_reg, withPort_regions]
    cases Arena.lookup s.regions address with
    | none => rfl
    | some r => exact ite_mapNext Iff.rfl rfl rfl
  | loadFromMemory address =>
    refine checkRegs_mapNext (fun _ => rfl) ?_
    simp only [withPort_regions, withPort_setReg]
    cases Arena.lookup s.regions address with
    | none => rfl
    | some r => exact ite_mapNext Iff.rfl rfl rfl
  | ret =>
    simp only [exec, execReturn, State.popCall, State.withPort]
    cases s.cs.getLast? <;> rfl

theorem runWord_withPort (w : InstrWord) (s : State) :
    runWord w (s.withPort run ready n) = mapNext (·.withPort run ready n) (runWord w s) := by
  unfold runWord
  cases decode w with
  | error => rfl
  | ok i => exact exec_withPort run ready n i s

end port

/-- With the host ready and all earlier records accepted, a transition ends with every record accepted. -/
theorem offerRecord_withPort_eq_core {u : State} {n : Nat} (h : u.out.length = n ∨ u.out.length = n + 1) :
    (u.withPort true true n).offerRecord = u.core := by
  obtain h | h := h
  · exact (offerRecord_of_not_waiting (by simp [State.recordWaiting, State.withPort, h])).trans (h ▸ rfl)
  · exact (offerRecord_of_ready rfl (by simp [State.recordWaiting, State.withPort, h])).trans
      (by rw [core_eq_withPort, h]; rfl)

theorem canStart_core {s : State} (hc : s.canStart = true) : s.core.canStart = true := by
  obtain ⟨hst, -, -, hreset⟩ := (canStart_iff s).mp hc
  exact (canStart_iff _).mpr ⟨hst, rfl, Nat.le_refl _, hreset⟩

/-- The undelayed run takes the same step, seen as the core of what it leaves. -/
theorem step_core_of_word {s u : State} (hc : s.canStart = true) (hl : s.ProgramLoaded)
    (hp : s.pc.toNat < s.progLen.toNat) {w : InstrWord} (hw : s.imemRead s.pc = some w)
    (hu : runWord w s.advance = .next u) (ho : u.out = s.out ∨ ∃ e, u.out = s.out ++ [e]) :
    step s.core = .next u.core := by
  have hrun : runWord w s.core.advance = .next (u.withPort true true s.out.length) := by
    have hport := runWord_withPort true true s.out.length w s.advance
    rw [hu] at hport
    exact hport
  have hlen : u.out.length = s.out.length ∨ u.out.length = s.out.length + 1 := by
    obtain ho | ⟨e, ho⟩ := ho <;> simp [ho]
  rw [step_of_word (canStart_core hc) hl hp hw, hrun, completeStep, offerRecord_withPort_eq_core hlen]

end Sys2Proof.Machine
end

section
/-! PROOFS. Pauses and handshake delays change no step (10_state.md section 9, 40_dispatch.md section 5). -/

namespace Sys2Proof.Machine

/-- Settles O54: a held transition leaves the core of the state, and a step reads neither of the host's lines nor the
acceptance count, so the undelayed run takes it too. -/
theorem pausesAndDelaysChangeNothing : Obligations.PausesAndDelaysChangeNothing := by
  intro s hr hinv
  refine ⟨fun t h => ?_, fun r h => ?_, fun r h => ?_⟩
  · cases step_cases h with
    | reset hr' => simp [hr] at hr'
    | waiting _ _ ht => exact .inl (ht ▸ core_offerRecord s)
    | paused _ _ _ _ ht => exact .inl (ht ▸ rfl)
    | fellOff hc hl hp ht => exact .inr (ht ▸ step_past_end (canStart_core hc) hl hp)
    | illegal hc hl hp w hw e hd ht =>
      rw [ht, core_offerRecord]
      exact .inr (step_core_of_word hc hl hp hw (by rw [runWord, hd]) (.inr ⟨_, rfl⟩))
    | ran hc hl hp w hw i hd u hu ht =>
      rw [ht, core_offerRecord]
      exact .inr (step_core_of_word hc hl hp hw (by rw [runWord, hd]; exact hu) (exec_shape hu).out)
  · have hw : s.core.recordWaiting = false := by simp [State.recordWaiting, State.core]
    obtain ⟨-, -, ⟨hs, rfl⟩ | ⟨hs, rfl⟩⟩ := step_fault h
    · exact step_of_halted hr hw hs
    · exact step_of_faulted hr hw hs
  · obtain ⟨hc, j, hj, rfl⟩ := step_refused h
    exact step_of_unloaded (canStart_core hc) hj

end Sys2Proof.Machine
end

section
/-! SUPPORT. Which execution raises CALL_STACK_OVERFLOW, and how deep the call stack can be. -/

namespace Sys2Proof.Machine

/-- The outcome is not the fault CALL_STACK_OVERFLOW. -/
def NoOverflow (s : State) (r : Result) : Prop := r ≠ .next (s.raise .callStackOverflow)

section noOverflow
variable {s : State}

/-- The fault shows in the record it appends. -/
theorem noOverflow_of_out {t : State} {e : EventRecord} (ho : t.out = s.out ++ [e])
    (he : e ≠ .fault s.index .callStackOverflow) : NoOverflow s (.next t) := by
  intro h
  rw [Host.Outcome.next.inj h] at ho
  exact he (by simpa using ho.symm)

theorem noOverflow_checkRegs (rs : List Nat) {go : Result} (h : NoOverflow s go) : NoOverflow s (checkRegs rs s go) := by
  unfold checkRegs
  split
  · exact noOverflow_of_out (State.diag_out _ _) nofun
  · exact h

theorem noOverflow_ite {c : Prop} [Decidable c] {p q : Result} (hp : NoOverflow s p) (hq : NoOverflow s q) :
    NoOverflow s (if c then p else q) := by
  split
  · exact hp
  · exact hq

theorem noOverflow_execABD {op : Byte} {f : Word → Word → Except FaultCode Word}
    (hf : ∀ p q, f p q ≠ .error .callStackOverflow) (a b d : Nat) : NoOverflow s (execABD op f a b d s) := by
  refine noOverflow_checkRegs _ ?_
  cases hv : f (s.reg a) (s.reg b) with
  | error c => exact noOverflow_of_out (State.raise_out _ _) fun h => hf _ _ (hv.trans (by simpa using h))
  | ok v => exact noOverflow_of_out (out_setReg_trace s _ _ _ _) nofun

theorem noOverflow_doJump (op : Byte) (offset : Nat) : NoOverflow s (doJump op offset s) :=
  noOverflow_ite (noOverflow_of_out rfl nofun) (noOverflow_of_out rfl nofun)

theorem divCheck_ne_overflow (f : Int → Int → Int) (p q : Word) : divCheck f p q ≠ .error .callStackOverflow := by
  unfold divCheck
  split
  · simp
  · split <;> simp

/-- R270, R311: no instruction but Call raises CALL_STACK_OVERFLOW. -/
theorem noOverflow_exec {i : Instr} (hi : ∀ offset, i ≠ .call offset) : NoOverflow s (exec i s) := by
  cases i with
  | call offset => exact absurd rfl (hi offset)
  | add | sub | mul | eq | neq | gt | lt | gte | lte =>
    simp only [exec, execAdd, execSub, execMul, execEq, execNeq, execGt, execLt, execGte, execLte]
    refine noOverflow_execABD ?_ _ _ _
    exact fun _ _ => nofun
  | div => exact noOverflow_execABD (divCheck_ne_overflow tdiv) _ _ _
  | mod => exact noOverflow_execABD (divCheck_ne_overflow trem) _ _ _
  | setRegister => exact noOverflow_checkRegs _ (noOverflow_of_out (out_setReg_trace s _ _ _ _) nofun)
  | jump => exact noOverflow_doJump _ _
  | jumpIfZero =>
    exact noOverflow_checkRegs _ (noOverflow_ite (noOverflow_doJump _ _) (noOverflow_of_out rfl nofun))
  | jumpIfNonZero =>
    exact noOverflow_checkRegs _ (noOverflow_ite (noOverflow_of_out rfl nofun) (noOverflow_doJump _ _))
  | print => exact noOverflow_checkRegs _ (noOverflow_of_out rfl nofun)
  | halt => exact noOverflow_of_out rfl nofun
  | allocateMemory =>
    exact noOverflow_ite (noOverflow_of_out rfl nofun)
      (noOverflow_ite (noOverflow_of_out rfl nofun) (noOverflow_of_out rfl nofun))
  | freeMemory address =>
    simp only [exec, execFreeMemory]
    split <;> exact noOverflow_of_out rfl nofun
  | storeToMemory address =>
    refine noOverflow_checkRegs _ ?_
    split
    · exact noOverflow_of_out rfl nofun
    · exact noOverflow_ite (noOverflow_of_out rfl nofun) (noOverflow_of_out rfl nofun)
  | loadFromMemory address =>
    refine noOverflow_checkRegs _ ?_
    split
    · exact noOverflow_of_out rfl nofun
    · exact noOverflow_ite (noOverflow_of_out rfl nofun)
        (noOverflow_of_out (out_setReg_trace s _ _ _ _) nofun)
  | ret =>
    obtain hcs | ⟨older, v, hcs⟩ := List.eq_nil_or_concat s.cs
    · intro h
      rw [exec_ret_of_empty hcs] at h
      have hout := congrArg State.out (Host.Outcome.next.inj h)
      simp at hout
    · rw [exec_ret_of_newest (hcs.trans List.concat_eq_append)]
      exact noOverflow_of_out rfl nofun

/-- R270: a Call raises it on a full call stack only. -/
theorem noOverflow_call (hroom : s.cs.length < s.config.callDepth) (offset : Nat) : NoOverflow s (exec (.call offset) s) := by
  rw [exec_call_of_room hroom]
  exact noOverflow_of_out rfl nofun

end noOverflow

/-- A strictly rising list of numbers in [1, n] has at most n entries. -/
theorem length_le_of_rising {l : List U32} {n : Nat} (hrising : l.Pairwise fun a b => a.toNat < b.toNat)
    (hbounds : ∀ e ∈ l, 1 ≤ e.toNat ∧ e.toNat ≤ n) : l.length ≤ n := by
  have hnodup : (l.map BitVec.toNat).Nodup := List.pairwise_map.mpr (hrising.imp fun h => h.ne)
  have hsub : l.map BitVec.toNat ⊆ List.range' 1 n := by
    intro m hm
    obtain ⟨e, he, rfl⟩ := List.mem_map.mp hm
    obtain ⟨h1, h2⟩ := hbounds e he
    exact List.mem_range'_1.mpr ⟨h1, by omega⟩
  simpa using (hnodup.subperm hsub).length_le

theorem FaultCode.eq_overflow_of_code {c : FaultCode} (h : c.code = 0x32) : c = .callStackOverflow := by
  cases c with
  | callStackOverflow => rfl
  | divByZero | divOverflow | illegalInstruction | arenaExhausted | regionTableFull => exact absurd h (by decide)

end Sys2Proof.Machine
end

section
/-! PROOFS. The depth of the call stack (70_reset_and_hazards.md section 5). -/

namespace Sys2Proof.Machine

/-- Settles O51: the entries are distinct numbers of [1, `pc`], so a Call of the program finds fewer than PROG_LEN of them. -/
theorem callStackCannotOverflow : Obligations.CallStackCannotOverflow := by
  rintro s ⟨hrising, hbounds, -⟩
  refine ⟨length_le_of_rising hrising fun e he => ⟨(hbounds e he).1, (hbounds e he).2.1⟩, fun hdepth t h hcause => ?_⟩
  cases step_cases h with
  | reset _ ht => simp [ht] at hcause
  | waiting _ _ ht | paused _ _ _ _ ht | fellOff _ _ _ ht => simpa [ht] using hcause
  | illegal _ _ _ _ _ _ _ ht => simp [ht, FaultCode.code] at hcause
  | ran _ _ hp _ _ i _ u hu ht =>
    rw [ht, State.offerRecord_faultCause] at hcause
    obtain ⟨c, hraise⟩ | ⟨-, hsame, -⟩ := (exec_shape hu).raise_or_no_fault
    · obtain rfl := FaultCode.eq_overflow_of_code (c := c) (by simpa [hraise] using hcause)
      have hlen := length_le_of_rising hrising fun e he => ⟨(hbounds e he).1, (hbounds e he).2.2⟩
      have hroom : s.advance.cs.length < s.advance.config.callDepth := show s.cs.length < s.config.callDepth by omega
      have hno : NoOverflow s.advance (exec i s.advance) := by
        by_cases hi : ∃ offset, i = .call offset
        · obtain ⟨offset, rfl⟩ := hi
          exact noOverflow_call hroom offset
        · exact noOverflow_exec fun offset hoff => hi ⟨offset, hoff⟩
      exact absurd (hu.trans (by rw [hraise])) hno
    · exact hsame.symm.trans hcause

end Sys2Proof.Machine
end

section
/-! SUPPORT. The boot order (70_reset_and_hazards.md R344): moves one after the other, and what the loads of a program leave
in instruction memory. -/

namespace Sys2Proof.Machine

theorem hostMoves_cons {s t : State} {m : HostMove} (h : s.hostMove m = some t) (ms : List HostMove) :
    s.hostMoves (m :: ms) = t.hostMoves ms := by
  simp only [State.hostMoves, h]

theorem hostMoves_append {s t : State} {ms : List HostMove} (h : s.hostMoves ms = some t) (ns : List HostMove) :
    s.hostMoves (ms ++ ns) = t.hostMoves ns := by
  induction ms generalizing s with
  | nil =>
    obtain rfl : s = t := Option.some.inj h
    rfl
  | cons m ms ih =>
    cases hm : s.hostMove m with
    | none => simp [State.hostMoves, hm] at h
    | some u => rw [List.cons_append, hostMoves_cons hm, ih ((hostMoves_cons hm ms).symm.trans h)]

/-- Instruction memory after the words of a program are stored from an index on. -/
def IMem.load (m : IMem) (start : Nat) : List InstrWord → IMem
  | [] => m
  | w :: ws => IMem.load (Assoc.put m start w) (start + 1) ws

/-- Loading leaves the words below its first index. -/
theorem IMem.get?_load_of_lt (program : List InstrWord) (m : IMem) {start j : Nat} (hj : j < start) :
    Assoc.get? (IMem.load m start program) j = Assoc.get? m j := by
  induction program generalizing m start with
  | nil => rfl
  | cons w ws ih => exact (ih _ (Nat.lt_succ_of_lt hj)).trans (Assoc.get?_put_other _ _ hj.ne)

/-- Loading stores each word at its own index. -/
theorem IMem.get?_load (program : List InstrWord) (m : IMem) (start : Nat) {j : Nat} (hj : j < program.length) :
    Assoc.get? (IMem.load m start program) (start + j) = program[j]? := by
  induction program generalizing m start j with
  | nil => exact absurd hj (Nat.not_lt_zero j)
  | cons w ws ih =>
    cases j with
    | zero => exact (IMem.get?_load_of_lt ws _ (Nat.lt_succ_self start)).trans (Assoc.get?_put_same _ _ _)
    | succ j =>
      rw [List.getElem?_cons_succ, ← ih (Assoc.put m start w) (start + 1) (Nat.lt_of_succ_lt_succ hj), IMem.load,
        Nat.add_right_comm, Nat.add_assoc]

/-- Under reset the load moves of a program within IMEM_DEPTH store it, and change nothing else. -/
theorem hostMoves_loadMoves (program : List InstrWord) {s : State} {start : Nat} (hr : s.resetLine = true)
    (hfits : start + program.length ≤ s.config.imemDepth.toNat) :
    s.hostMoves (loadMoves start program) = some { s with imem := IMem.load s.imem start program } := by
  induction program generalizing s start with
  | nil => rfl
  | cons w ws ih =>
    rw [List.length_cons] at hfits
    rw [loadMoves, hostMoves_cons (hostMove_loadWord_under_reset hr (show start < _ by omega) w)]
    exact ih hr (show start + 1 + ws.length ≤ s.config.imemDepth.toNat by omega)

/-- The block under reset once a program and its length are loaded. -/
def State.programmed (s : State) (program : List InstrWord) : State :=
  { s.applyReset with
    resetLine := true
    imem := IMem.load s.imem 0 program
    progLen := BitVec.ofNat 32 program.length }

/-- The block the boot order leaves: the reset values, the program loaded, and the input lines at "go on". -/
def State.booted (s : State) (program : List InstrWord) : State :=
  { s.programmed program with resetLine := false, runEnable := true, eventReady := true }

theorem get?_programmed_imem (s : State) (program : List InstrWord) {j : Nat} (hj : j < program.length) :
    Assoc.get? (s.programmed program).imem j = program[j]? := by
  have h := IMem.get?_load program s.imem 0 hj
  rwa [Nat.zero_add] at h

section programmed
variable {s : State} {program : List InstrWord} (hfits : program.length ≤ s.config.imemDepth.toNat)
include hfits

theorem toNat_programmed_progLen : (s.programmed program).progLen.toNat = program.length := by
  have hdepth := s.config.imemDepth.isLt
  exact (BitVec.toNat_ofNat _ _).trans (Nat.mod_eq_of_lt (by omega))

theorem programmed_loaded : (s.programmed program).ProgramLoaded := by
  intro j hj
  rw [toNat_programmed_progLen hfits] at hj
  rw [get?_programmed_imem s program hj, List.getElem?_eq_getElem hj]
  rfl

/-- R344: the boot order, move by move. -/
theorem hostMoves_bootMoves : s.hostMoves (bootMoves program) = some (s.booted program) := by
  have hload : ({ s.applyReset with resetLine := true } : State).hostMoves (loadMoves 0 program) =
      some { s.applyReset with resetLine := true, imem := IMem.load s.imem 0 program } :=
    hostMoves_loadMoves program rfl (by simpa using hfits)
  have hlength : ({ s.applyReset with resetLine := true, imem := IMem.load s.imem 0 program } : State).hostMove
      (.loadLength (BitVec.ofNat 32 program.length)) = some (s.programmed program) :=
    hostMove_loadLength_under_reset rfl ((toNat_programmed_progLen hfits).trans_le hfits)
  calc s.hostMoves (bootMoves program)
      = ({ s.applyReset with resetLine := true, imem := IMem.load s.imem 0 program } : State).hostMoves
          [.loadLength (BitVec.ofNat 32 program.length), .releaseReset, .setRunEnable true, .setEventReady true] :=
        hostMoves_append hload _
    _ = (s.programmed program).hostMoves [.releaseReset, .setRunEnable true, .setEventReady true] :=
        hostMoves_cons hlength _
    _ = some (s.booted program) :=
        hostMoves_cons (hostMove_releaseReset_of_loaded (programmed_loaded hfits)) _

end programmed

/-- R63: the numbers of the registers. -/
theorem statusWord_register (s : State) {n : Nat} (hn : n < 8) : s.statusWord (0x08 + n) = s.reg n := by
  unfold State.statusWord
  split
  case h_9 => rw [if_pos (by omega), Nat.add_sub_cancel_left]
  all_goals omega

/-- R63: the numbers past the registers: the call stack's entries below CALL_DEPTH, then 0. -/
theorem statusWord_stack (s : State) (n : Nat) :
    s.statusWord (0x10 + n) = if n < s.config.callDepth then (s.cs[n]?).getD 0 else 0 := by
  unfold State.statusWord
  split
  case h_9 => simp
  all_goals omega

end Sys2Proof.Machine
end

section
/-! PROOFS. The host's side: the boot order (70_reset_and_hazards.md R344), the status map (10_state.md R63), the arena-read
port (R64). -/

namespace Sys2Proof.Machine

/-- Settles O59: the moves leave `State.booted`, whose words are the program's. -/
theorem bootLoadsTheProgram : Obligations.BootLoadsTheProgram := by
  intro s program hfits
  exact ⟨s.booted program, hostMoves_bootMoves hfits, rfl, rfl, rfl, rfl, rfl, rfl, rfl, rfl, rfl,
    fun r _ => s.applyReset_reg r, toNat_programmed_progLen hfits,
    fun _ => get?_programmed_imem s program, programmed_loaded hfits, rfl⟩

/-- Settles O58: the listing test is the library's decision of a permutation, and a byte is read through `Arena.byteAt`. -/
theorem arenaReadPort : Obligations.ArenaReadPort := by
  intro s hread
  have hbyte : ∀ k o, s.readArenaByte k o = some (Arena.byteAt s.regions k o) := fun k o => by
    rw [State.readArenaByte, if_pos hread]
  refine ⟨fun l => ?_, fun k o hl => ?_, fun k o r hl ho => ?_, fun k o r hl ho => ?_⟩
  · rw [State.isRegionListing, hread, Bool.true_and, List.isPerm_iff]
  · rw [hbyte, Arena.byteAt, hl]
  · rw [hbyte, Arena.byteAt, hl, Option.some_inj]
    exact if_neg ho.not_gt
  · rw [hbyte, Option.some_inj]
    exact Arena.byteAt_eq_some_iff.mpr ⟨r, hl, ho, rfl⟩

/-- Settles O57: the first eight numbers by definition, the others by their range. -/
theorem statusMapWords : Obligations.StatusMapWords := by
  intro s
  refine ⟨fun h => ?_, fun h => ?_, fun h => ?_, rfl, ?_, rfl, rfl, rfl, rfl, rfl, fun n => statusWord_register s,
    fun n v hn hv => ?_, fun n hn hlen => ?_, fun n hn => ?_⟩
  · exact (congrArg RunState.code h)
  · exact (congrArg RunState.code h)
  · exact (congrArg RunState.code h)
  · exact BitVec.toNat_setWidth_of_le (by decide)
  · rw [statusWord_stack, if_pos hn, hv, Option.getD_some]
  · rw [statusWord_stack, if_pos hn, List.getElem?_eq_none hlen, Option.getD_none]
  · rw [statusWord_stack, if_neg hn.not_gt]

/-- Settles O37: the two code tables, read off. -/
theorem faultAndStateCodes : Obligations.FaultAndStateCodes := by
  refine ⟨?_, ?_, ?_, ?_, ?_, ?_, ?_, ?_, ?_⟩ <;> rfl

end Sys2Proof.Machine
end

section
/-! SUPPORT. A pattern as the claims' two's complement (00_scope.md R7), and what a division that does not fault gives. -/

namespace Sys2Proof.Machine

open Claims

/-- R7: a pattern as two's complement. -/
theorem s32_eq_signed32 (p : Word) : s32 p = signed32 p.toNat := by
  rw [s32, BitVec.toInt_eq_toNat_cond, signed32]
  split <;> split <;> omega

/-- An execution that does not fault is in neither fatal case of a division. -/
theorem no_fatal_case {mk : Nat → Nat → Nat → Instr} (hmk : DividesFatally mk) {s t : State} {a b d : Nat} (ha : a < 8)
    (hb : b < 8) (hd : d < 8) (h : exec (mk a b d) s = .next t) (hst : t.st ≠ .faulted) :
    s32 (s.reg b) ≠ 0 ∧ ¬ (s32 (s.reg a) = -2 ^ 31 ∧ s32 (s.reg b) = -1) := by
  obtain ⟨hzero, hover⟩ := hmk s a b d ha hb hd
  refine ⟨fun hb0 => hst ?_, fun ⟨ha0, hb1⟩ => hst ?_⟩
  · rw [Host.Outcome.next.inj (h.symm.trans (hzero hb0))]
    rfl
  · rw [Host.Outcome.next.inj (h.symm.trans (hover ha0 hb1))]
    rfl

/-- R136: the destination holds the value the instruction writes. -/
theorem reg_eq_of_aluWrites {i : Instr} {op : Byte} {a b d : Nat} {s t : State} {v : Word} (h : AluWrites i op a b d s v)
    (ht : exec i s = .next t) : t.reg d = v := by
  obtain ⟨t', ht', hreg, -⟩ := h
  rw [Host.Outcome.next.inj (ht.symm.trans ht')]
  exact hreg

end Sys2Proof.Machine
end

section
/-! PROOFS. Values (00_scope.md R7) and what two instructions give together: Div and Mod (42_arithmetic.md section 3), a store
and a load (46_memory_ops.md section 4), a Call and a Return (47_call_return.md). -/

namespace Sys2Proof.Machine

open Claims

/-- Settles O8: `s32` after `wrap32` is the balanced residue modulo 2^32, and the others are their library readings. -/
theorem valueConversions : Obligations.ValueConversions := by
  refine ⟨fun n => ⟨(s32_range _).1, (s32_range _).2, ?_⟩, fun p => ⟨s32_eq_signed32 p, ?_, trunc8_toNat p⟩, s32_zext32⟩
  · rw [s32, wrap32, BitVec.toInt_ofInt]
    exact Int.dvd_bmod_sub_self
  · exact BitVec.ofInt_toInt

/-- Settles O13: the two results are the exact quotient and remainder, which R9 defines to recompose the dividend. -/
theorem quotientAndRemainderRecompose : Obligations.QuotientAndRemainderRecompose := by
  intro s t u a b ha hb ht hu htst hust
  obtain ⟨-, hfatal, hdiv⟩ := divTruncatesOrFaults
  obtain ⟨-, -, hmod⟩ := modTruncatesOrFaults
  obtain ⟨hzero, hover⟩ := no_fatal_case hfatal ha hb ha ht htst
  obtain ⟨q, hq, hqwrites⟩ := (hdiv s a b a).2 ha hb ha hzero hover
  obtain ⟨r, hr, hrwrites⟩ := (hmod s a b a).2 ha hb ha hzero hover
  rw [reg_eq_of_aluWrites hqwrites ht, reg_eq_of_aluWrites hrwrites hu, hq, hr]
  refine ⟨by ring, ?_⟩
  have hlt := natAbs_trem_lt (s32 (s.reg a)) hzero
  rw [Int.abs_eq_natAbs, Int.abs_eq_natAbs]
  exact_mod_cast hlt

/-- Settles O24: the load reads the byte the store wrote, zero-extended. -/
theorem storeThenLoadGivesTheByte : Obligations.StoreThenLoadGivesTheByte := by
  intro s u address reg reg2 r hreg hreg2 hl hsize
  refine ⟨_, exec_storeToMemory_of_lt_size hreg hl hsize, fun hu => ?_⟩
  have hbyte : Arena.byteAt u.regions address 0 = some (trunc8 (s.reg reg)) := by
    rw [hu]
    exact (Arena.byteAt_writeByte hl hsize _ _ _).trans (if_pos ⟨rfl, rfl⟩)
  refine ⟨_, exec_loadFromMemory_of_byteAt hreg2 hbyte, ?_⟩
  rw [State.trace_reg, State.reg_setReg_same u _ hreg2, zext32_toNat]
  exact trunc8_toNat (s.reg reg)

/-- Settles O27: the newest entry is the one the Call pushed, the post-fetch `pc`. -/
theorem callThenReturnResumesAfterTheCall : Obligations.CallThenReturnResumesAfterTheCall := by
  intro s u offset hroom
  exact ⟨_, exec_call_of_room hroom offset, fun hcs => ⟨_, exec_ret_of_newest hcs, rfl, rfl, rfl⟩⟩

end Sys2Proof.Machine
end

section
/-! SUPPORT. The opcode map as a table (30_encoding.md R104), when a word is legal, and the fields as numbers. -/

namespace Sys2Proof

open Claims

/-! ### Legal words (R105, R106) -/

theorem decode_eq_ok_iff (w : InstrWord) (i : Instr) : decode w = .ok i ↔
    ∃ f, formatOf (opcField w) = some f ∧
      reservedClear f (raField w) (rbField w) (rdField w) (immAField w) (immBField w) = true ∧
      instrOfFields (opcField w) (raField w) (rbField w) (rdField w) (immAField w) (immBField w) = some i := by
  unfold decode decodeFields
  cases formatOf (opcField w) with
  | none => simp
  | some f =>
    by_cases hr : reservedClear f (raField w) (rbField w) (rdField w) (immAField w) (immBField w) = true
    · cases instrOfFields (opcField w) (raField w) (rbField w) (rdField w) (immAField w) (immBField w) <;> simp [hr]
    · simp [hr]

theorem decode_layout_of_clear {opc ra rb rd : Byte} {ia ib : U32} {f : Format} {i : Instr}
    (hf : formatOf opc = some f) (hr : reservedClear f ra rb rd ia ib = true)
    (hi : instrOfFields opc ra rb rd ia ib = some i) : decode (layout opc ra rb rd ia ib) = .ok i :=
  (decode_eq_ok_iff _ i).mpr ⟨f, by simpa using hf, by simpa using hr, by simpa using hi⟩

/-- An assigned opcode has an instruction for any fields. -/
theorem instrOfFields_isSome {opc : Byte} {f : Format} (hf : formatOf opc = some f) (ra rb rd : Byte) (ia ib : U32) :
    ∃ i, instrOfFields opc ra rb rd ia ib = some i := by
  unfold formatOf at hf
  unfold instrOfFields
  split at hf <;> simp_all

theorem legal_iff (w : InstrWord) : (∃ i, decode w = .ok i) ↔ ∃ f, formatOf (opcField w) = some f ∧
    reservedClear f (raField w) (rbField w) (rdField w) (immAField w) (immBField w) = true := by
  simp only [decode_eq_ok_iff]
  constructor
  · rintro ⟨i, f, hf, hr, -⟩
    exact ⟨f, hf, hr⟩
  · rintro ⟨f, hf, hr⟩
    obtain ⟨i, hi⟩ := instrOfFields_isSome hf (raField w) (rbField w) (rdField w) (immAField w) (immBField w)
    exact ⟨i, f, hf, hr, hi⟩

/-! ### The opcode table (R104) -/

/-- The assigned opcodes with their formats. -/
def opcodeMap : List (Byte × Format) :=
  [(0x01, .DI), (0x02, .ABD), (0x03, .ABD), (0x04, .ABD), (0x05, .ABD), (0x06, .ABD), (0x07, .ABD), (0x08, .ABD),
    (0x09, .ABD), (0x0A, .ABD), (0x0B, .ABD), (0x0C, .ABD), (0x0D, .I), (0x0E, .AI), (0x0F, .AI), (0x10, .A), (0x11, .N),
    (0x12, .I), (0x13, .I), (0x14, .AIJ), (0x15, .DI), (0x16, .I), (0x17, .N)]

theorem eq_ofNat_of_toNat {b : Byte} {n : Nat} (h : b.toNat = n) : b = BitVec.ofNat 8 n := by
  rw [← h, BitVec.ofNat_toNat, BitVec.setWidth_eq]

theorem formatOf_eq_some_iff (opc : Byte) (f : Format) : formatOf opc = some f ↔ (opc, f) ∈ opcodeMap := by
  constructor
  · intro h
    unfold formatOf at h
    split at h
    case h_24 => simp at h
    all_goals
      rename_i hopc
      obtain rfl := eq_ofNat_of_toNat hopc
      obtain rfl := Option.some.inj h
      decide
  · have hmap : ∀ e ∈ opcodeMap, formatOf e.1 = some e.2 := by decide
    exact hmap (opc, f)

/-- The mask of a table row: all of OPC and the fields its format reserves. -/
def rowMask : Format → InstrWord
  | .N => layout 0xFF 0xFF 0xFF 0xFF 0xFFFFFFFF 0xFFFFFFFF
  | .DI => layout 0xFF 0xFF 0xFF 0 0 0xFFFFFFFF
  | .ABD => layout 0xFF 0 0 0 0xFFFFFFFF 0xFFFFFFFF
  | .I => layout 0xFF 0xFF 0xFF 0xFF 0 0xFFFFFFFF
  | .AI => layout 0xFF 0 0xFF 0xFF 0 0xFFFFFFFF
  | .A => layout 0xFF 0 0xFF 0xFF 0xFFFFFFFF 0xFFFFFFFF
  | .AIJ => layout 0xFF 0 0xFF 0xFF 0 0

/-- opcode_table.json is the opcode map, each row an opcode over zeros and its format's mask. -/
theorem opcodeRows_eq_map : opcodeRows = opcodeMap.map fun e => (layout e.1 0 0 0 0 0, rowMask e.2) := by decide

theorem layout_inj {opc ra rb rd opc' ra' rb' rd' : Byte} {ia ib ia' ib' : U32} :
    layout opc ra rb rd ia ib = layout opc' ra' rb' rd' ia' ib' ↔
      opc = opc' ∧ ra = ra' ∧ rb = rb' ∧ rd = rd' ∧ ia = ia' ∧ ib = ib' := by
  refine ⟨fun h => ⟨?_, ?_, ?_, ?_, ?_, ?_⟩, fun ⟨h1, h2, h3, h4, h5, h6⟩ => by rw [h1, h2, h3, h4, h5, h6]⟩
  · simpa using congrArg opcField h
  · simpa using congrArg raField h
  · simpa using congrArg rbField h
  · simpa using congrArg rdField h
  · simpa using congrArg immAField h
  · simpa using congrArg immBField h

theorem and_ones8 (b : Byte) : b &&& 0xFF#8 = b := BitVec.and_allOnes

theorem and_ones32 (n : U32) : n &&& 0xFFFFFFFF#32 = n := BitVec.and_allOnes

/-- A word matches a row when its opcode is the row's and the fields the row's format reserves are zero. -/
theorem and_rowMask_eq_iff (w : InstrWord) (opc : Byte) (f : Format) : w &&& rowMask f = layout opc 0 0 0 0 0 ↔
    opcField w = opc ∧ reservedClear f (raField w) (rbField w) (rdField w) (immAField w) (immBField w) = true := by
  conv_lhs => rw [← layout_fields w]
  cases f <;> simp [rowMask, layout_and, layout_inj, reservedClear, and_ones8, and_ones32, and_assoc]

/-! ### The fields as the claims' numbers (R100) -/

theorem bits_opc (w : InstrWord) : bits w 95 88 = (opcField w).toNat := (toNat_extractLsb'_eq_bits w rfl).symm
theorem bits_ra (w : InstrWord) : bits w 87 80 = (raField w).toNat := (toNat_extractLsb'_eq_bits w rfl).symm
theorem bits_rb (w : InstrWord) : bits w 79 72 = (rbField w).toNat := (toNat_extractLsb'_eq_bits w rfl).symm
theorem bits_rd (w : InstrWord) : bits w 71 64 = (rdField w).toNat := (toNat_extractLsb'_eq_bits w rfl).symm
theorem bits_immA (w : InstrWord) : bits w 63 32 = (immAField w).toNat := (toNat_extractLsb'_eq_bits w rfl).symm
theorem bits_immB (w : InstrWord) : bits w 31 0 = (immBField w).toNat := (toNat_extractLsb'_eq_bits w rfl).symm

/-! ### Operands that fit their fields (R101, R102) -/

theorem fitsReg_iff {r : Nat} : fitsReg r = true ↔ ∃ b : Byte, r = b.toNat := by
  rw [fitsReg, decide_eq_true_iff]
  exact ⟨fun h => ⟨BitVec.ofNat 8 r, by rw [BitVec.toNat_ofNat, Nat.mod_eq_of_lt h]⟩, fun ⟨b, hb⟩ => hb ▸ b.isLt⟩

theorem fitsU32_iff {n : Nat} : fitsU32 n = true ↔ ∃ u : U32, n = u.toNat := by
  rw [fitsU32, decide_eq_true_iff]
  exact ⟨fun h => ⟨BitVec.ofNat 32 n, by rw [BitVec.toNat_ofNat, Nat.mod_eq_of_lt h]⟩, fun ⟨u, hu⟩ => hu ▸ u.isLt⟩

theorem fitsS32_iff {v : Int} : fitsS32 v = true ↔ ∃ p : Word, v = s32 p := by
  rw [fitsS32, Bool.and_eq_true, decide_eq_true_iff, decide_eq_true_iff]
  exact ⟨fun ⟨h1, h2⟩ => ⟨wrap32 v, (Machine.s32_wrap32 h1 h2).symm⟩, fun ⟨p, hp⟩ => hp ▸ Machine.s32_range p⟩

theorem ofInt_s32 (p : Word) : BitVec.ofInt 32 (s32 p) = p := BitVec.ofInt_toInt

theorem fitsReg_toNat (b : Byte) : fitsReg b.toNat = true := fitsReg_iff.mpr ⟨b, rfl⟩

theorem fitsU32_toNat (u : U32) : fitsU32 u.toNat = true := fitsU32_iff.mpr ⟨u, rfl⟩

theorem fitsS32_s32 (p : Word) : fitsS32 (s32 p) = true := fitsS32_iff.mpr ⟨p, rfl⟩

/-- R109: the instruction of fields whose reserved ones are zero has an encoding, the layout of those fields. -/
theorem wellFormed_and_encode_of_fields {opc ra rb rd : Byte} {ia ib : U32} {f : Format} {i : Instr}
    (hf : formatOf opc = some f) (hclear : reservedClear f ra rb rd ia ib = true)
    (hi : instrOfFields opc ra rb rd ia ib = some i) :
    WellFormed i = true ∧ encode i = layout opc ra rb rd ia ib := by
  unfold instrOfFields at hi
  split at hi
  case h_24 => simp at hi
  all_goals
    rename_i hopc
    obtain rfl := eq_ofNat_of_toNat hopc
    obtain rfl := Option.some.inj hi
    obtain rfl := Option.some.inj hf
    simp only [reservedClear, Bool.and_eq_true, beq_iff_eq] at hclear
    simp [WellFormed, fitsReg_toNat, fitsU32_toNat, fitsS32_s32, encode, ofInt_s32, hclear]

/-- R110: the ports an instruction marks are those of the fields it takes a register from, and a field it does not mark is
reserved, so zero. -/
theorem ports_of_fields {opc ra rb rd : Byte} {ia ib : U32} {f : Format} {i : Instr} (hf : formatOf opc = some f)
    (hclear : reservedClear f ra rb rd ia ib = true) (hi : instrOfFields opc ra rb rd ia ib = some i) :
    Machine.checkedRegs i =
      (if (Machine.signalsOf i).readsRA then [ra.toNat] else []) ++
      (if (Machine.signalsOf i).readsRB then [rb.toNat] else []) ++
      (if (Machine.signalsOf i).writesRD then [rd.toNat] else []) ∧
    writtenReg i = (if (Machine.signalsOf i).writesRD then some rd.toNat else none) ∧
    ((Machine.signalsOf i).readsRA = false → ra.toNat = 0) ∧
    ((Machine.signalsOf i).readsRB = false → rb.toNat = 0) ∧
    ((Machine.signalsOf i).writesRD = false → rd.toNat = 0) ∧
    ((Machine.signalsOf i).usesImmA = false → ia.toNat = 0) ∧
    ((Machine.signalsOf i).usesImmB = false → ib.toNat = 0) := by
  unfold instrOfFields at hi
  split at hi
  case h_24 => simp at hi
  all_goals
    rename_i hopc
    obtain rfl := eq_ofNat_of_toNat hopc
    obtain rfl := Option.some.inj hi
    obtain rfl := Option.some.inj hf
    simp only [reservedClear, Bool.and_eq_true, beq_iff_eq] at hclear
    simp [Machine.checkedRegs, Machine.signalsOf, writtenReg, hclear]

end Sys2Proof
end

section
/-! PROOFS. The encoding (30_encoding.md). -/

namespace Sys2Proof

open Claims

/-- Settles O1: a well-formed instruction's operands are the numbers of fields, and its encoding lays these out over zeros. -/
theorem decodeOfEncodeIsTheInstruction : Obligations.DecodeOfEncodeIsTheInstruction := by
  intro i h
  cases i with
  | add | sub | mul | div | mod | eq | neq | gt | lt | gte | lte =>
    simp only [WellFormed, Bool.and_eq_true, fitsReg_iff] at h
    obtain ⟨⟨⟨ra, rfl⟩, rb, rfl⟩, rd, rfl⟩ := h
    simp only [encode, BitVec.ofNat_toNat, BitVec.setWidth_eq]
    exact decode_layout_of_clear rfl rfl rfl
  | setRegister =>
    simp only [WellFormed, Bool.and_eq_true, fitsReg_iff, fitsS32_iff] at h
    obtain ⟨⟨rd, rfl⟩, ia, rfl⟩ := h
    simp only [encode, BitVec.ofNat_toNat, BitVec.setWidth_eq, ofInt_s32]
    exact decode_layout_of_clear rfl rfl rfl
  | jump | allocateMemory | freeMemory | call =>
    simp only [WellFormed, fitsU32_iff] at h
    obtain ⟨ia, rfl⟩ := h
    simp only [encode, BitVec.ofNat_toNat, BitVec.setWidth_eq]
    exact decode_layout_of_clear rfl rfl rfl
  | jumpIfZero | jumpIfNonZero =>
    simp only [WellFormed, Bool.and_eq_true, fitsReg_iff, fitsU32_iff] at h
    obtain ⟨⟨ra, rfl⟩, ia, rfl⟩ := h
    simp only [encode, BitVec.ofNat_toNat, BitVec.setWidth_eq]
    exact decode_layout_of_clear rfl rfl rfl
  | print =>
    simp only [WellFormed, fitsReg_iff] at h
    obtain ⟨ra, rfl⟩ := h
    simp only [encode, BitVec.ofNat_toNat, BitVec.setWidth_eq]
    exact decode_layout_of_clear rfl rfl rfl
  | storeToMemory =>
    simp only [WellFormed, Bool.and_eq_true, fitsReg_iff, fitsU32_iff] at h
    obtain ⟨⟨⟨ia, rfl⟩, ra, rfl⟩, ib, rfl⟩ := h
    simp only [encode, BitVec.ofNat_toNat, BitVec.setWidth_eq]
    exact decode_layout_of_clear rfl rfl rfl
  | loadFromMemory =>
    simp only [WellFormed, Bool.and_eq_true, fitsReg_iff, fitsU32_iff] at h
    obtain ⟨⟨ia, rfl⟩, rd, rfl⟩ := h
    simp only [encode, BitVec.ofNat_toNat, BitVec.setWidth_eq]
    exact decode_layout_of_clear rfl rfl rfl
  | halt | ret => exact decode_layout_of_clear rfl rfl rfl

/-- Settles O3: a word is legal when its opcode has a format whose reserved fields are zero, and that is a row of the
table. -/
theorem legalWordsAreTheTableRows : Obligations.LegalWordsAreTheTableRows := by
  intro w
  rw [legal_iff, opcodeRows_eq_map]
  constructor
  · rintro ⟨f, hf, hclear⟩
    exact ⟨_, List.mem_map_of_mem ((formatOf_eq_some_iff _ f).mp hf), (and_rowMask_eq_iff w _ f).mpr ⟨rfl, hclear⟩⟩
  · rintro ⟨row, hrow, hmatch⟩
    obtain ⟨⟨opc, f⟩, hmem, rfl⟩ := List.mem_map.mp hrow
    obtain ⟨rfl, hclear⟩ := (and_rowMask_eq_iff w opc f).mp hmatch
    exact ⟨f, (formatOf_eq_some_iff _ f).mpr hmem, hclear⟩

/-- Settles O2: the fields of a legal word are the operands' own patterns and zeros. -/
theorem encodeOfDecodeIsTheWord : Obligations.EncodeOfDecodeIsTheWord := by
  intro w i h
  obtain ⟨f, hf, hclear, hi⟩ := (decode_eq_ok_iff w i).mp h
  have hlayout := wellFormed_and_encode_of_fields hf hclear hi
  rwa [layout_fields] at hlayout

/-- Settles O4: each opcode's instruction takes its operands from the fields, which are the claims' numbers. -/
theorem decodedOperandsAreTheWordsFields : Obligations.DecodedOperandsAreTheWordsFields := by
  intro w i h
  obtain ⟨f, -, -, hi⟩ := (decode_eq_ok_iff w i).mp h
  unfold instrOfFields at hi
  split at hi
  case h_24 => simp at hi
  all_goals
    rename_i hopc
    obtain rfl := Option.some.inj hi
    simp [ReadFrom, bits_opc, bits_ra, bits_rb, bits_rd, bits_immA, bits_immB, hopc, Machine.s32_eq_signed32]

/-- Settles O7: the word of a well-formed instruction decodes to it, so its ports are those of the word's fields. -/
theorem checkedRegistersAreTheMarkedPorts : Obligations.CheckedRegistersAreTheMarkedPorts := by
  intro i h
  obtain ⟨f, hf, hclear, hi⟩ := (decode_eq_ok_iff _ i).mp (decodeOfEncodeIsTheInstruction i h)
  rw [bits_ra, bits_rb, bits_rd, bits_immA, bits_immB]
  exact ports_of_fields hf hclear hi

/-- Settles O5: words of the specification, decoded. -/
theorem sampleWordsDecode : Obligations.SampleWordsDecode := by
  refine ⟨?_, ?_, ?_, ?_, ?_, ?_, ?_, ?_, ?_, ?_, ?_⟩ <;> decide

end Sys2Proof
end
